-- ==== Sys2Proof/Word.lean ====
section
/-! DEFINITION. The word types of FXALU (spec/00_scope.md R8, spec/30_encoding.md R60, R62). Bit 0 is the least
significant bit of every word. -/

namespace Sys2Proof

/-- A 64-bit word: a raw Q31.32 value, or a plain two's-complement integer where a rule says so (R8, R9, R63). -/
abbrev Word := BitVec 64

/-- The 6-bit opcode field `CW[133:128]` (R60). -/
abbrev Opcode := BitVec 6

/-- One 134-bit command word `CW` (R60). -/
abbrev CommandWord := BitVec 134

/-- One 68-bit response word `RW` (R62). -/
abbrev ResponseWord := BitVec 68

end Sys2Proof
end

