-- ==== Sys2Proof/Syntax.lean ====
section
/-! DEFINITION. The commands of FXALU (spec/30_encoding.md R64, one constructor per row of spec/opcode_table.json)
and the abstract syntax of the listing lines the spec writes its examples in (spec/30_encoding.md R69). -/

namespace Sys2Proof

/-- The 35 assigned mnemonics (spec/30_encoding.md R64). -/
inductive Mnemonic where
  | fromint   -- FROMINT, opcode 0x01, R81
  | toint   -- TOINT, opcode 0x02, R82
  | cmp   -- CMP, opcode 0x03, R83
  | add   -- ADD, opcode 0x08, R91
  | sub   -- SUB, opcode 0x09, R92
  | mul   -- MUL, opcode 0x0A, R93
  | div   -- DIV, opcode 0x0B, R94
  | mod   -- MOD, opcode 0x0C, R95
  | neg   -- NEG, opcode 0x0D, R97
  | inc   -- INC, opcode 0x0E, R98
  | dec   -- DEC, opcode 0x0F, R99
  | fadd   -- FADD, opcode 0x10, R100
  | fsub   -- FSUB, opcode 0x11, R101
  | fmul   -- FMUL, opcode 0x12, R102
  | fmod   -- FMOD, opcode 0x14, R103
  | floor   -- FLOOR, opcode 0x18, R121
  | ceil   -- CEIL, opcode 0x19, R122
  | round   -- ROUND, opcode 0x1A, R123
  | trunc   -- TRUNC, opcode 0x1B, R124
  | sign   -- SIGN, opcode 0x1C, R125
  | abs   -- ABS, opcode 0x1D, R126
  | fabs   -- FABS, opcode 0x1E, R127
  | sqrt   -- SQRT, opcode 0x20, R136
  | sin   -- SIN, opcode 0x28, R155
  | cos   -- COS, opcode 0x29, R157
  | tan   -- TAN, opcode 0x2A, R164
  | fsin   -- FSIN, opcode 0x2C, R160
  | fcos   -- FCOS, opcode 0x2D, R161
  | atan   -- ATAN, opcode 0x30, R177
  | atan2   -- ATAN2, opcode 0x31, R183
  | acos   -- ACOS, opcode 0x32, R187
  | log2   -- LOG2, opcode 0x34, R190
  | ln   -- LN, opcode 0x35, R193
  | pow2   -- POW2, opcode 0x36, R195
  | pow   -- POW, opcode 0x37, R200
  deriving DecidableEq, Repr

/-- A command: a mnemonic with the two 64-bit operands its command word carries (spec/30_encoding.md R60, R63).
A one-operand command carries `b` too, since its word does, and its meaning ignores it (R65). -/
inductive Instr where
  | fromint (a b : Word)   -- FROMINT, opcode 0x01, R81
  | toint (a b : Word)   -- TOINT, opcode 0x02, R82
  | cmp (a b : Word)   -- CMP, opcode 0x03, R83
  | add (a b : Word)   -- ADD, opcode 0x08, R91
  | sub (a b : Word)   -- SUB, opcode 0x09, R92
  | mul (a b : Word)   -- MUL, opcode 0x0A, R93
  | div (a b : Word)   -- DIV, opcode 0x0B, R94
  | mod (a b : Word)   -- MOD, opcode 0x0C, R95
  | neg (a b : Word)   -- NEG, opcode 0x0D, R97
  | inc (a b : Word)   -- INC, opcode 0x0E, R98
  | dec (a b : Word)   -- DEC, opcode 0x0F, R99
  | fadd (a b : Word)   -- FADD, opcode 0x10, R100
  | fsub (a b : Word)   -- FSUB, opcode 0x11, R101
  | fmul (a b : Word)   -- FMUL, opcode 0x12, R102
  | fmod (a b : Word)   -- FMOD, opcode 0x14, R103
  | floor (a b : Word)   -- FLOOR, opcode 0x18, R121
  | ceil (a b : Word)   -- CEIL, opcode 0x19, R122
  | round (a b : Word)   -- ROUND, opcode 0x1A, R123
  | trunc (a b : Word)   -- TRUNC, opcode 0x1B, R124
  | sign (a b : Word)   -- SIGN, opcode 0x1C, R125
  | abs (a b : Word)   -- ABS, opcode 0x1D, R126
  | fabs (a b : Word)   -- FABS, opcode 0x1E, R127
  | sqrt (a b : Word)   -- SQRT, opcode 0x20, R136
  | sin (a b : Word)   -- SIN, opcode 0x28, R155
  | cos (a b : Word)   -- COS, opcode 0x29, R157
  | tan (a b : Word)   -- TAN, opcode 0x2A, R164
  | fsin (a b : Word)   -- FSIN, opcode 0x2C, R160
  | fcos (a b : Word)   -- FCOS, opcode 0x2D, R161
  | atan (a b : Word)   -- ATAN, opcode 0x30, R177
  | atan2 (a b : Word)   -- ATAN2, opcode 0x31, R183
  | acos (a b : Word)   -- ACOS, opcode 0x32, R187
  | log2 (a b : Word)   -- LOG2, opcode 0x34, R190
  | ln (a b : Word)   -- LN, opcode 0x35, R193
  | pow2 (a b : Word)   -- POW2, opcode 0x36, R195
  | pow (a b : Word)   -- POW, opcode 0x37, R200
  deriving DecidableEq, Repr

/-- The ten constant names an operand of a listing line may use (spec/30_encoding.md R69, spec/20_memory.md R44). -/
inductive ConstName where
  | zero | one | pi | piOver2 | piTimes2 | maxValue | minValue | ln2 | log2Max | log2Min
  deriving DecidableEq, Repr

/-- An operand of a listing line (spec/30_encoding.md R69). -/
inductive ListingOperand where
  /-- `0xH...H`, 1 to 16 hexadecimal digits. -/
  | hex (v : Nat)
  /-- A decimal integer with an optional minus sign. -/
  | dec (k : Int)
  /-- `fx(k)`, the raw value `k * 2^32`. -/
  | fx (k : Int)
  /-- A constant's name. -/
  | const (c : ConstName)
  /-- `$k`, the `res` of the response to line `k`, lines numbered from 1. -/
  | ref (k : Nat)
  deriving DecidableEq, Repr

/-- A listing line: a mnemonic and its operands as written (spec/30_encoding.md R69). -/
structure ListingLine where
  mnemonic : Mnemonic
  operands : List ListingOperand
  deriving DecidableEq, Repr

end Sys2Proof
end

