-- ==== Sys2Proof/WellFormed.lean ====
section
/-! DEFINITION. Which terms are well-formed: command words whose opcode is assigned (spec/30_encoding.md R64, R67),
commands (every term of `Instr` is one: its operands have exactly the widths of the encoding, R63, R65, R68), and
listing lines (R69). -/

namespace Sys2Proof

/-- The 29 reserved opcode values (spec/30_encoding.md R67). -/
def reservedOpcodes : List Opcode :=
  [0x00, 0x04, 0x05, 0x06, 0x07, 0x13, 0x15, 0x16, 0x17, 0x1F, 0x21, 0x22, 0x23, 0x24, 0x25,
   0x26, 0x27, 0x2B, 0x2E, 0x2F, 0x33, 0x38, 0x39, 0x3A, 0x3B, 0x3C, 0x3D, 0x3E, 0x3F]

/-- The opcode field of a command word is assigned (spec/30_encoding.md R64, R67). -/
def CommandWord.wellFormed (cw : CommandWord) : Bool :=
  !reservedOpcodes.contains (cw.extractLsb' 128 6)

/-- How many operands a command uses: the "operands" column of spec/30_encoding.md R64. -/
def Mnemonic.operandCount : Mnemonic → Nat
  | .fromint => 1
  | .toint => 1
  | .cmp => 2
  | .add => 2
  | .sub => 2
  | .mul => 2
  | .div => 2
  | .mod => 2
  | .neg => 1
  | .inc => 1
  | .dec => 1
  | .fadd => 2
  | .fsub => 2
  | .fmul => 2
  | .fmod => 2
  | .floor => 1
  | .ceil => 1
  | .round => 1
  | .trunc => 1
  | .sign => 1
  | .abs => 1
  | .fabs => 1
  | .sqrt => 1
  | .sin => 1
  | .cos => 1
  | .tan => 1
  | .fsin => 1
  | .fcos => 1
  | .atan => 1
  | .atan2 => 2
  | .acos => 1
  | .log2 => 1
  | .ln => 1
  | .pow2 => 1
  | .pow => 2

/-- An operand of listing line `line` (numbered from 1) is one the syntax of spec/30_encoding.md R69 admits: a
hexadecimal word of at most 16 digits, an integer that has a 64-bit two's-complement word, `fx(k)` with `k` in
[-2^31, 2^31-1], a constant, or a reference to an earlier line. Log entry 11. -/
def ListingOperand.wellFormed (line : Nat) : ListingOperand → Bool
  | .hex v => decide (v < 2 ^ 64)
  | .dec k => decide (-(2 ^ 63) ≤ k ∧ k < 2 ^ 63)
  | .fx k => decide (-(2 ^ 31) ≤ k ∧ k < 2 ^ 31)
  | .const _ => true
  | .ref k => decide (1 ≤ k ∧ k < line)

/-- A listing line has as many operands as its mnemonic uses, each well-formed (spec/30_encoding.md R69). -/
def ListingLine.wellFormed (line : Nat) (l : ListingLine) : Bool :=
  decide (l.operands.length = l.mnemonic.operandCount) && l.operands.all (·.wellFormed line)

end Sys2Proof
end

