-- ==== Sys2Proof/Decode.lean ====
section
/-! DEFINITION. Decoding and encoding of command words (spec/30_encoding.md R60, R64 to R68) and the packing of
response words (R62). -/

namespace Sys2Proof

/-- Why a command word is no command. -/
inductive DecodeError where
  /-- The opcode is one of the 29 reserved values (spec/30_encoding.md R67); the machine responds ILLOP. Safe: the
  spec gives every reserved opcode exactly this response. -/
  | reservedOpcode (op : Opcode)
  deriving DecidableEq, Repr

/-- `CW[133:128]` (R60). -/
def CommandWord.opcode (cw : CommandWord) : Opcode := cw.extractLsb' 128 6

/-- `CW[127:64]` (R60). -/
def CommandWord.operandA (cw : CommandWord) : Word := cw.extractLsb' 64 64

/-- `CW[63:0]` (R60). -/
def CommandWord.operandB (cw : CommandWord) : Word := cw.extractLsb' 0 64

/-- `CW = (op, a, b)` with `op` in the most significant bits (R60). -/
def CommandWord.pack (op : Opcode) (a b : Word) : CommandWord :=
  (op ++ (a ++ b : BitVec 128)).cast rfl

/-- The opcode map of spec/30_encoding.md R64: all six bits are matched (R66, R68); a reserved value has no
mnemonic (R67). -/
def mnemonicOf (op : Opcode) : Option Mnemonic :=
  match op with
  | 0x01 => some .fromint
  | 0x02 => some .toint
  | 0x03 => some .cmp
  | 0x08 => some .add
  | 0x09 => some .sub
  | 0x0A => some .mul
  | 0x0B => some .div
  | 0x0C => some .mod
  | 0x0D => some .neg
  | 0x0E => some .inc
  | 0x0F => some .dec
  | 0x10 => some .fadd
  | 0x11 => some .fsub
  | 0x12 => some .fmul
  | 0x14 => some .fmod
  | 0x18 => some .floor
  | 0x19 => some .ceil
  | 0x1A => some .round
  | 0x1B => some .trunc
  | 0x1C => some .sign
  | 0x1D => some .abs
  | 0x1E => some .fabs
  | 0x20 => some .sqrt
  | 0x28 => some .sin
  | 0x29 => some .cos
  | 0x2A => some .tan
  | 0x2C => some .fsin
  | 0x2D => some .fcos
  | 0x30 => some .atan
  | 0x31 => some .atan2
  | 0x32 => some .acos
  | 0x34 => some .log2
  | 0x35 => some .ln
  | 0x36 => some .pow2
  | 0x37 => some .pow
  | _ => none

/-- The command a mnemonic and two operands make. -/
def Mnemonic.instr (m : Mnemonic) (a b : Word) : Instr :=
  match m with
  | .fromint => .fromint a b
  | .toint => .toint a b
  | .cmp => .cmp a b
  | .add => .add a b
  | .sub => .sub a b
  | .mul => .mul a b
  | .div => .div a b
  | .mod => .mod a b
  | .neg => .neg a b
  | .inc => .inc a b
  | .dec => .dec a b
  | .fadd => .fadd a b
  | .fsub => .fsub a b
  | .fmul => .fmul a b
  | .fmod => .fmod a b
  | .floor => .floor a b
  | .ceil => .ceil a b
  | .round => .round a b
  | .trunc => .trunc a b
  | .sign => .sign a b
  | .abs => .abs a b
  | .fabs => .fabs a b
  | .sqrt => .sqrt a b
  | .sin => .sin a b
  | .cos => .cos a b
  | .tan => .tan a b
  | .fsin => .fsin a b
  | .fcos => .fcos a b
  | .atan => .atan a b
  | .atan2 => .atan2 a b
  | .acos => .acos a b
  | .log2 => .log2 a b
  | .ln => .ln a b
  | .pow2 => .pow2 a b
  | .pow => .pow a b

/-- Decode the three fields of a command (R68: `op` alone selects the command). -/
def decodeFields (op : Opcode) (a b : Word) : Except DecodeError Instr :=
  match mnemonicOf op with
  | some m => .ok (m.instr a b)
  | none => .error (.reservedOpcode op)

/-- Decode a command word; total, and a reserved opcode is rejected by name (R67, R68). -/
def decode (cw : CommandWord) : Except DecodeError Instr :=
  decodeFields cw.opcode cw.operandA cw.operandB

/-- The opcode of each mnemonic (R64). -/
def Mnemonic.opcode : Mnemonic → Opcode
  | .fromint => 0x01
  | .toint => 0x02
  | .cmp => 0x03
  | .add => 0x08
  | .sub => 0x09
  | .mul => 0x0A
  | .div => 0x0B
  | .mod => 0x0C
  | .neg => 0x0D
  | .inc => 0x0E
  | .dec => 0x0F
  | .fadd => 0x10
  | .fsub => 0x11
  | .fmul => 0x12
  | .fmod => 0x14
  | .floor => 0x18
  | .ceil => 0x19
  | .round => 0x1A
  | .trunc => 0x1B
  | .sign => 0x1C
  | .abs => 0x1D
  | .fabs => 0x1E
  | .sqrt => 0x20
  | .sin => 0x28
  | .cos => 0x29
  | .tan => 0x2A
  | .fsin => 0x2C
  | .fcos => 0x2D
  | .atan => 0x30
  | .atan2 => 0x31
  | .acos => 0x32
  | .log2 => 0x34
  | .ln => 0x35
  | .pow2 => 0x36
  | .pow => 0x37

/-- The mnemonic of a command. -/
def Instr.mnemonic : Instr → Mnemonic
  | .fromint _ _ => .fromint
  | .toint _ _ => .toint
  | .cmp _ _ => .cmp
  | .add _ _ => .add
  | .sub _ _ => .sub
  | .mul _ _ => .mul
  | .div _ _ => .div
  | .mod _ _ => .mod
  | .neg _ _ => .neg
  | .inc _ _ => .inc
  | .dec _ _ => .dec
  | .fadd _ _ => .fadd
  | .fsub _ _ => .fsub
  | .fmul _ _ => .fmul
  | .fmod _ _ => .fmod
  | .floor _ _ => .floor
  | .ceil _ _ => .ceil
  | .round _ _ => .round
  | .trunc _ _ => .trunc
  | .sign _ _ => .sign
  | .abs _ _ => .abs
  | .fabs _ _ => .fabs
  | .sqrt _ _ => .sqrt
  | .sin _ _ => .sin
  | .cos _ _ => .cos
  | .tan _ _ => .tan
  | .fsin _ _ => .fsin
  | .fcos _ _ => .fcos
  | .atan _ _ => .atan
  | .atan2 _ _ => .atan2
  | .acos _ _ => .acos
  | .log2 _ _ => .log2
  | .ln _ _ => .ln
  | .pow2 _ _ => .pow2
  | .pow _ _ => .pow

/-- Operand `a` of a command. -/
def Instr.operandA : Instr → Word
  | .fromint a _ => a
  | .toint a _ => a
  | .cmp a _ => a
  | .add a _ => a
  | .sub a _ => a
  | .mul a _ => a
  | .div a _ => a
  | .mod a _ => a
  | .neg a _ => a
  | .inc a _ => a
  | .dec a _ => a
  | .fadd a _ => a
  | .fsub a _ => a
  | .fmul a _ => a
  | .fmod a _ => a
  | .floor a _ => a
  | .ceil a _ => a
  | .round a _ => a
  | .trunc a _ => a
  | .sign a _ => a
  | .abs a _ => a
  | .fabs a _ => a
  | .sqrt a _ => a
  | .sin a _ => a
  | .cos a _ => a
  | .tan a _ => a
  | .fsin a _ => a
  | .fcos a _ => a
  | .atan a _ => a
  | .atan2 a _ => a
  | .acos a _ => a
  | .log2 a _ => a
  | .ln a _ => a
  | .pow2 a _ => a
  | .pow a _ => a

/-- Operand `b` of a command. -/
def Instr.operandB : Instr → Word
  | .fromint _ b => b
  | .toint _ b => b
  | .cmp _ b => b
  | .add _ b => b
  | .sub _ b => b
  | .mul _ b => b
  | .div _ b => b
  | .mod _ b => b
  | .neg _ b => b
  | .inc _ b => b
  | .dec _ b => b
  | .fadd _ b => b
  | .fsub _ b => b
  | .fmul _ b => b
  | .fmod _ b => b
  | .floor _ b => b
  | .ceil _ b => b
  | .round _ b => b
  | .trunc _ b => b
  | .sign _ b => b
  | .abs _ b => b
  | .fabs _ b => b
  | .sqrt _ b => b
  | .sin _ b => b
  | .cos _ b => b
  | .tan _ b => b
  | .fsin _ b => b
  | .fcos _ b => b
  | .atan _ b => b
  | .atan2 _ b => b
  | .acos _ b => b
  | .log2 _ b => b
  | .ln _ b => b
  | .pow2 _ b => b
  | .pow _ b => b

/-- A command term is well-formed when its opcode is assigned; its operands cannot be ill-formed (R63, R65, R68). -/
def Instr.wellFormed (i : Instr) : Bool :=
  !reservedOpcodes.contains i.mnemonic.opcode

/-- The command word of a command (R60, R64). -/
def encode (i : Instr) : CommandWord :=
  CommandWord.pack i.mnemonic.opcode i.operandA i.operandB

/-- The command word whose bits are `w`, of which `nbits` are given and the rest are 0, numbered as
spec/opcode_table.json numbers them: one 134-bit word, bit 0 its least significant. A bit above bit 133 does not
exist on the command port, so a number that has one is no command word. Log entry 9. -/
def tableCommandWord (nbits w : Nat) : Option CommandWord :=
  if w % 2 ^ nbits < 2 ^ 134 then some (BitVec.ofNat 134 (w % 2 ^ nbits)) else none

/-- The command the decoder reads from an instruction of the opcode table whose bits are `w`. -/
def decodeTableWord (nbits w : Nat) : Option Instr :=
  match tableCommandWord nbits w with
  | none => none
  | some cw =>
    match decode cw with
    | .ok i => some i
    | .error _ => none

/-- `RW = (err, ovf, res)` with `err` in the most significant bits (spec/30_encoding.md R62). -/
def packResponse (err : BitVec 3) (ovf : Bool) (res : Word) : ResponseWord :=
  (err ++ (BitVec.ofBool ovf ++ res : BitVec 65)).cast rfl

end Sys2Proof
end

