-- ==== Sys2Proof/Config.lean ====
section
/-! DEFINITION. The open parameters of FXALU (spec/92_eei_decisions.md section 6). Each is a constant without a
body: no proof can know its value, so a theorem holds for every value. -/

namespace Sys2Proof.Config

/-- The stored words of the ROM region `SinLut` (spec/20_memory.md R46, R49: an open parameter). Log entry 6. -/
opaque sinLut : Nat → Word

/-- The stored words of the ROM region `TanLut` (spec/20_memory.md R46, R49: an open parameter). Log entry 6. -/
opaque tanLut : Nat → Word

/-- The implementation's latency before the bounds of spec/70_reset_and_hazards.md R246 are applied
(`Machine.latency` applies them). Log entry 7. -/
opaque latRaw : Opcode → Word → Word → Nat

/-- The bound `LATMAX` of spec/70_reset_and_hazards.md R246. Log entry 7. -/
opaque latMax : Nat

end Sys2Proof.Config
end

