-- ==== Sys2Proof/Machine/Rom.lean ====
section
/-! DEFINITION. The constant ROM (spec/20_memory.md): the literals of R44, the read of a table (R41, R50), and the
named properties of table contents that a claim may assume (R46 to R49). -/

namespace Sys2Proof.Machine

/-! ### Constants (R44), as signed raw values -/

def one : Int := 0x100000000
def maxValue : Int := 0x7FFFFFFFFFFFFFFF
def minValue : Int := -0x8000000000000000
def pi : Int := 0x3243F6A88
def piOver2 : Int := 0x1921FB544
def piTimes2 : Int := 0x6487ED511
def ln2 : Int := 0xB17217F7
def log2Max : Int := 0x1F00000000
def log2Min : Int := -0x2000000000
def largePi : Int := 0x6487ED5110B4611A
def lutInterval : Int := 0x1FFFF19349798
def c028 : Int := 0x47AE147A
def two : Int := 0x200000000
def three : Int := 0x300000000

/-- The raw literal of a constant a listing may name (spec/30_encoding.md R69). -/
def constLiteral : ConstName → Int
  | .zero => 0
  | .one => one
  | .pi => pi
  | .piOver2 => piOver2
  | .piTimes2 => piTimes2
  | .maxValue => maxValue
  | .minValue => minValue
  | .ln2 => ln2
  | .log2Max => log2Max
  | .log2Min => log2Min

/-- The modulus of pass `i` of the angle reducer, `LargePi >> i` (R45, spec/44_trig.md R146). -/
def reducerModulus (i : Nat) : Int := largePi / 2 ^ i

/-- The relations between the literals that R45 lists and asks a model to prove; `constantRelations` of
Laws/Rom.lean is the proof. -/
structure ConstantRelations : Prop where
  pi_double : pi = 2 * piOver2
  piTimes2_double : piTimes2 = 2 * pi + 1
  modulus_last : reducerModulus 28 = piTimes2
  modulus_decreasing : ∀ i j, i < j → j ≤ 28 → reducerModulus j < reducerModulus i
  modulus_positive : ∀ i, i ≤ 28 → 0 < reducerModulus i
  largest_power : ∀ k : Nat, (2 : ℝ) ^ k * Real.pi < 2 ^ 31 ↔ k ≤ 29
  largePi_fits : 0 < largePi ∧ largePi ≤ maxValue

/-! ### Tables -/

/-- The number `N` of entries of each table (R46). -/
def lutLength : Nat := 205887

/-- A table: the word stored at each index. -/
abbrev Lut := Nat → Word

/-- The ROM's index clamp (R50). -/
def clampIndex (i : Int) : Nat :=
  if i < 0 then 0 else if (lutLength : Int) ≤ i then lutLength - 1 else i.toNat

/-- Read one word of a table, as a signed raw value (R41, R50, R51). -/
def readLut (t : Lut) (i : Int) : Int := (t (clampIndex i)).toInt

/-! ### Named properties of table contents (R47, R48): premises a claim may state, never facts of the model -/

/-- Indices of a table: `0 ≤ i < N` (R41). -/
def InTable (i : Nat) : Prop := i < lutLength

/-- Entries never decrease with the index. -/
def LutMonotone (t : Lut) : Prop :=
  ∀ i j, i ≤ j → InTable j → (t i).toInt ≤ (t j).toInt

/-- The properties R47 lists for the reference sine table. -/
structure SinLutProperties (t : Lut) : Prop where
  first : (t 0).toInt = 0
  last : (t (lutLength - 1)).toInt = one
  lastButOne : (t (lutLength - 2)).toInt = one
  monotone : LutMonotone t
  lower : ∀ i, InTable i → 0 ≤ (t i).toInt
  upper : ∀ i, InTable i → (t i).toInt ≤ one
  adjacent : ∀ i, InTable (i + 1) → (t (i + 1)).toInt - (t i).toInt ≤ 32769

/-- The properties R48 lists for the reference tangent table. -/
structure TanLutProperties (t : Lut) : Prop where
  first : (t 0).toInt = 0
  last : (t (lutLength - 1)).toInt = maxValue
  increasing : ∀ i j, i < j → InTable j → (t i).toInt < (t j).toInt

/-- The table is the reference sine table of R47: each entry is the integer nearest to `sin(θ_i) · 2^32`, with the
sampling angles `θ_i = i · (π/2) / (N - 1)` of R46 (no tie occurs, R47). -/
def IsSinReference (t : Lut) : Prop :=
  ∀ i : Nat, InTable i →
    |((t i).toInt : ℝ) - Real.sin (i * (Real.pi / 2) / 205886) * 2 ^ 32| ≤ 1 / 2

/-- The table is the reference tangent table of R48: the nearest integers clamped to `MaxValue`, and `MaxValue` in
the last place. -/
def IsTanReference (t : Lut) : Prop :=
  (∀ i : Nat, i < lutLength - 1 →
    (t i).toInt = min maxValue (round (Real.tan (i * (Real.pi / 2) / 205886) * 2 ^ 32))) ∧
  (t (lutLength - 1)).toInt = maxValue

end Sys2Proof.Machine
end

