-- ==== Sys2Proof/Machine/State.lean ====
section
/-! DEFINITION. The state of FXALU: every register of spec/10_state.md R21, the response pulse of
spec/30_encoding.md R61, and two fields of the model's own (`wait`, `host`), as plain data. -/

namespace Sys2Proof.Machine

/-- The values the host drives on the input ports (spec/30_encoding.md R61). -/
structure Pins where
  rst : Bool
  cmdValid : Bool
  cmdOp : Opcode
  cmdA : Word
  cmdB : Word
  deriving DecidableEq, Repr

/-- The three fields of a response (spec/30_encoding.md R62). -/
structure Response where
  res : Word
  ovf : Bool
  err : BitVec 3
  deriving DecidableEq, Repr

/-- The errors a command can end in (spec/60_exceptions.md R210). -/
inductive Err where
  /-- Division or remainder by a zero raw value, or a zero base with a negative exponent (R211). -/
  | divzero
  /-- An operand outside the domain of SQRT, LOG2, LN, ACOS or POW (R212). -/
  | domain
  /-- A reserved opcode (R213). -/
  | illop
  /-- FMOD of MinValue by -1 raw (R215). -/
  | removf
  deriving DecidableEq, Repr

structure State where
  /-- `OPR`, the opcode latch (R21). -/
  opr : Opcode
  /-- `A`, the first operand latch (R21). -/
  a : Word
  /-- `B`, the second operand latch (R21). -/
  b : Word
  /-- `RES`, the result of the last completed command (R21, R22). -/
  res : Word
  /-- `OVF`, the overflow flag of the last completed command (R21, R25). -/
  ovf : Bool
  /-- `ERR`, the error code of the last completed command (R21, R24). -/
  err : BitVec 3
  /-- `RVALID`: a response has been produced since reset (R21). -/
  rvalid : Bool
  /-- `BUSY`: a command is in flight (R21, R26). -/
  busy : Bool
  /-- `rsp_valid`, high for one cycle when a command completes (spec/30_encoding.md R61). Log entry 4. -/
  rspValid : Bool
  /-- The model's own: clock edges still to come before the command in flight completes. Log entry 5. -/
  wait : Nat
  /-- The model's own: what the host will drive on the input ports, first element first. Log entry 2. -/
  host : List Pins
  deriving DecidableEq, Repr

/-- No step of FXALU faults: every accepted command completes and every error is a response
(spec/60_exceptions.md R214, R220; spec/93_implementation_defined.md part 1). The type has no constructor, which is
safe: no theorem can be about a fault. Log entry 10. -/
inductive Fault where
  deriving DecidableEq, Repr

/-- The reasons the model has no meaning for an instruction. -/
inductive Refusal where
  /-- Raised by an arm of `exec` whose instruction has no meaning yet; safe. No arm raises it now. -/
  | notModelled (mnemonic : String)
  deriving DecidableEq, Repr

/-- The machine right after reset (spec/10_state.md R31, spec/70_reset_and_hazards.md R235). `wait` and `host` are
the model's own (log entries 2 and 5). -/
def State.reset : State where
  opr := 0
  a := 0
  b := 0
  res := 0
  ovf := false
  err := 0
  rvalid := false
  busy := false
  rspValid := false
  wait := 0
  host := []

end Sys2Proof.Machine
end

