-- ==== Sys2Proof/Machine/Flags.lean ====
section
/-! DEFINITION. The three ways an integer becomes a raw value (spec/00_scope.md R10), the overflow flag
(spec/10_state.md R25) and the error codes (spec/60_exceptions.md R210). -/

namespace Sys2Proof.Machine

/-- `wrap(t)` as a 64-bit word (R10). -/
def wordOf (t : Int) : Word := BitVec.ofInt 64 t

/-- `wrap(t)`: the signed reading of the low 64 bits of `t` (R10). -/
def wrap (t : Int) : Int := (wordOf t).toInt

/-- `clamp(t)` (R10). -/
def clamp (t : Int) : Int :=
  if maxValue < t then maxValue else if t < minValue then minValue else t

/-- The value of a command together with the overflow flag it sets (R10, R25). -/
structure Flagged where
  value : Int
  ovf : Bool
  deriving DecidableEq, Repr

/-- `sat(t)`: the clamped value, flagged when clamping changed it (R10). -/
def sat (t : Int) : Flagged := { value := clamp t, ovf := decide (clamp t ≠ t) }

/-- A value that never sets the flag: every command outside the list of R25. -/
def unflagged (v : Int) : Flagged := { value := v, ovf := false }

/-- The code of each error (R210); 0 is NONE. -/
def errCode : Err → BitVec 3
  | .divzero => 1
  | .domain => 2
  | .illop => 3
  | .removf => 4

/-- A successful response (spec/00_scope.md R12 `return`): the value as a word, its flag, `ERR = 0`. -/
def okResponse (r : Flagged) : Response := { res := wordOf r.value, ovf := r.ovf, err := 0 }

/-- The error response (spec/60_exceptions.md R214): `RES = 0`, `OVF = 0`, `ERR` the code. -/
def errResponse (e : Err) : Response := { res := 0, ovf := false, err := errCode e }

end Sys2Proof.Machine
end

