-- ==== Sys2Proof/Machine/Operands.lean ====
section
/-! DEFINITION. The two readings of an operand word (spec/30_encoding.md R63) and the fields of a raw value
(spec/00_scope.md R8). -/

namespace Sys2Proof.Machine

/-- The raw reading `s(v)`: the signed integer whose 2^32-th part is the represented number (spec/00_scope.md R9). -/
def raw (v : Word) : Int := v.toInt

/-- The integer reading: a plain 64-bit two's-complement integer, operand `a` of FROMINT only (R63). -/
def integer (v : Word) : Int := v.toInt

/-- `frac = a[31:0]`, the fractional field, unsigned (spec/42_rounding_classification.md, head). -/
def frac (x : Int) : Int := x % 2 ^ 32

/-- `fl = a - frac` (spec/42_rounding_classification.md, head). -/
def floorPart (x : Int) : Int := x - frac x

/-- `a[32]`, the least significant bit of the integer field, is 1 (spec/42_rounding_classification.md R123). -/
def oddInteger (x : Int) : Bool := decide (x / 2 ^ 32 % 2 = 1)

end Sys2Proof.Machine
end

