-- ==== Sys2Proof/Machine/Ops.lean ====
section
/-! DEFINITION. The shared operations: integer helpers (spec/00_scope.md R11), the internal operator functions
(R13), and the operations on the registers: accepting, completing (with success or with an error), and reset. -/

namespace Sys2Proof.Machine

/-! ### Integer helpers (R11) -/

/-- `floor_div(t, d)` for `d > 0`; `t >> k` is `floorDiv t (2^k)`. -/
def floorDiv (t d : Int) : Int := t / d

/-- `tdiv(t, d)`: the quotient truncated toward zero. -/
def tdiv (t d : Int) : Int := t.tdiv d

/-- `trem(t, d) = t - d * tdiv(t, d)`. -/
def trem (t d : Int) : Int := t - d * tdiv t d

/-- `|t|`, the exact magnitude. -/
def magnitude (t : Int) : Int := t.natAbs

/-- `sgn(t)`. -/
def sgn (t : Int) : Int := if t < 0 then -1 else if t = 0 then 0 else 1

/-- The root of `n` extracted bit by bit below `r`, from bit `k - 1` down. -/
def isqrtBits (n : Nat) : Nat → Nat → Nat
  | 0, r => r
  | k + 1, r => if (r + 2 ^ k) * (r + 2 ^ k) ≤ n then isqrtBits n k (r + 2 ^ k) else isqrtBits n k r

/-- `isqrt(n)`: the greatest `r` with `r² ≤ n`, for `n < 2^128`. -/
def isqrt (n : Nat) : Nat := isqrtBits n 64 0

/-! ### Operator functions (R13): signed raw integers in and out, the flag discarded -/

/-- `add(x, y)` (R91). -/
def add (x y : Int) : Int := (sat (x + y)).value

/-- `sub(x, y)` (R92). -/
def sub (x y : Int) : Int := (sat (x - y)).value

/-- The exact floored product of R93: `floor(x * y / 2^32)`. -/
def mulExact (x y : Int) : Int := floorDiv (x * y) (2 ^ 32)

/-- `mul(x, y)` (R93). -/
def mul (x y : Int) : Int := (sat (mulExact x y)).value

/-- The quotient of the magnitudes scaled by 2^32, rounded to nearest, halves up (R94). -/
def divMagnitude (x y : Int) : Int :=
  floorDiv (2 * magnitude x * 2 ^ 32 + magnitude y) (2 * magnitude y)

/-- The signed quotient of R94 before clamping, for `y ≠ 0`. -/
def divExact (x y : Int) : Int :=
  if decide (x < 0) = decide (y < 0) then divMagnitude x y else -divMagnitude x y

/-- DIV with its flag and its error (R94). -/
def satDiv (x y : Int) : Except Err Flagged :=
  if y = 0 then .error .divzero else .ok (sat (divExact x y))

/-- `div(x, y)`: raises DIVZERO for `y = 0` (R94). -/
def div (x y : Int) : Except Err Int := (satDiv x y).map Flagged.value

/-- `neg(x)` (R97). -/
def neg (x : Int) : Int := if x = minValue then maxValue else -x

/-- `fadd(x, y)` (R100). -/
def fadd (x y : Int) : Int := wrap (x + y)

/-- `fsub(x, y)` (R101). -/
def fsub (x y : Int) : Int := wrap (x - y)

/-- `fmul(x, y)` (R102). -/
def fmul (x y : Int) : Int := wrap (mulExact x y)

/-- The rounded value of R123 before clamping: to the nearest multiple of `one`, ties to the even integer. -/
def roundExact (x : Int) : Int :=
  if frac x < 2 ^ 31 then floorPart x
  else if 2 ^ 31 < frac x then floorPart x + one
  else if oddInteger x then floorPart x + one
  else floorPart x

/-- `round(x)` (R123). -/
def roundSat (x : Int) : Int := (sat (roundExact x)).value

/-- `abs(x)` (R126). -/
def absSat (x : Int) : Int := if x = minValue then maxValue else magnitude x

/-- The sign-mask form `(a + mask) ^ mask` on the 64-bit word (R127). -/
def signMask (v : Word) : Word := (v + v.sshiftRight 63) ^^^ v.sshiftRight 63

/-- `fabs(x)` (R127). -/
def fabs (x : Int) : Int := (signMask (wordOf x)).toInt

/-- The rounded root of R136, for `x ≥ 0`: `isqrt(x * 2^32)`, one more if the remainder exceeds the root. -/
def sqrtValue (x : Int) : Int :=
  let n := (x * 2 ^ 32).toNat
  let r := isqrt n
  if r < n - r * r then r + 1 else r

/-- `sqrt(x)`: raises DOMAIN for `x < 0` (R136). -/
def sqrt (x : Int) : Except Err Int :=
  if x < 0 then .error .domain else .ok (sqrtValue x)

/-- `fromInt(k) = k * 2^32` for a literal `k` (R13). -/
def fromInt (k : Int) : Int := k * 2 ^ 32

/-! ### Operations on the registers -/

/-- The latency of a command: the implementation's figure, at least 1 and bounded
(spec/70_reset_and_hazards.md R246). Log entry 7. -/
def latency (op : Opcode) (a b : Word) : Nat := max 1 (min (Config.latRaw op a b) Config.latMax)

/-- Accepting the command on the input ports: the latches and `BUSY` (spec/10_state.md R26). -/
def accept (p : Pins) (s : State) : State :=
  { s with opr := p.cmdOp, a := p.cmdA, b := p.cmdB, busy := true, rspValid := false,
           wait := latency p.cmdOp p.cmdA p.cmdB }

/-- Completion: the response registers are written all together, `RVALID` is set, `BUSY` is cleared and `rsp_valid`
pulses (spec/10_state.md R26, spec/60_exceptions.md R214, spec/70_reset_and_hazards.md R243). -/
def respond (r : Response) (s : State) : State :=
  { s with res := r.res, ovf := r.ovf, err := r.err, rvalid := true, busy := false, rspValid := true, wait := 0 }

/-- `raise`: a command that ends in an error completes with the error response (spec/00_scope.md R12,
spec/60_exceptions.md R214). FXALU's whole error mechanism: nothing is saved and control goes nowhere (R220). -/
def raiseErr (e : Err) (s : State) : State := respond (errResponse e) s

/-- The end of every command: a value or a raised error becomes the response (spec/00_scope.md R12). -/
def complete (x : Except Err Flagged) (s : State) : Host.Outcome State Fault Refusal :=
  match x with
  | .ok r => .next (respond (okResponse r) s)
  | .error e => .next (raiseErr e s)

/-- Completion of a command that cannot raise. -/
def completeOk (r : Flagged) (s : State) : Host.Outcome State Fault Refusal := complete (.ok r) s

/-- Completion of a command whose value never sets the flag but may raise (R175, R135). -/
def completeValue (x : Except Err Int) (s : State) : Host.Outcome State Fault Refusal :=
  complete (x.map unflagged) s

/-- A command with a reserved opcode completes with ILLOP (spec/60_exceptions.md R213). -/
def illegalCommand (s : State) : Host.Outcome State Fault Refusal := complete (.error .illop) s

/-- Reset of every register (spec/70_reset_and_hazards.md R235); what the host will drive is no register. -/
def resetRegisters (s : State) : State := { State.reset with host := s.host }

/-- A cycle without completion: `rsp_valid` is low, the response registers keep their value
(spec/30_encoding.md R61, spec/60_exceptions.md R229). -/
def idle (s : State) : State := { s with rspValid := false }

/-- The host goes on to what it will drive next. -/
def withHost (h : List Pins) (s : State) : State := { s with host := h }

/-- The output port `cmd_ready = NOT BUSY` (spec/30_encoding.md R61). -/
def cmdReady (s : State) : Bool := !s.busy

/-- The response the output ports show (spec/30_encoding.md R61). -/
def responseOf (s : State) : Response := { res := s.res, ovf := s.ovf, err := s.err }

/-- The response word `RW` the output ports show (spec/30_encoding.md R62). -/
def responseWord (s : State) : ResponseWord := packResponse s.err s.ovf s.res

/-- The ports that present a command word (spec/30_encoding.md R60, R61). -/
def commandPins (cw : CommandWord) : Pins :=
  { rst := false, cmdValid := true, cmdOp := cw.opcode, cmdA := cw.operandA, cmdB := cw.operandB }

end Sys2Proof.Machine
end

