-- ==== Sys2Proof/Machine/Arith.lean ====
section
/-! DEFINITION. Checked arithmetic: ADD, SUB, MUL, DIV, MOD, NEG, INC, DEC (spec/41_saturating_arithmetic.md
R91 to R99). -/

namespace Sys2Proof.Machine

/-- ADD (R91). -/
def execAdd (a b : Word) (s : State) : Host.Outcome State Fault Refusal :=
  completeOk (sat (raw a + raw b)) s

/-- SUB (R92). -/
def execSub (a b : Word) (s : State) : Host.Outcome State Fault Refusal :=
  completeOk (sat (raw a - raw b)) s

/-- MUL (R93). -/
def execMul (a b : Word) (s : State) : Host.Outcome State Fault Refusal :=
  completeOk (sat (mulExact (raw a) (raw b))) s

/-- DIV (R94): the zero divisor is tested first. -/
def execDiv (a b : Word) (s : State) : Host.Outcome State Fault Refusal :=
  complete (satDiv (raw a) (raw b)) s

/-- The guarded remainder of R95. -/
def modValue (x y : Int) : Except Err Int :=
  if y = 0 then .error .divzero
  else if x = minValue ∧ y = -1 then .ok 0
  else .ok (trem x y)

/-- MOD (R95). -/
def execMod (a b : Word) (s : State) : Host.Outcome State Fault Refusal :=
  completeValue (modValue (raw a) (raw b)) s

/-- The value and flag of R97: `MinValue` saturates. -/
def satNeg (x : Int) : Flagged := { value := neg x, ovf := decide (x = minValue) }

/-- NEG (R97). -/
def execNeg (a _b : Word) (s : State) : Host.Outcome State Fault Refusal :=
  completeOk (satNeg (raw a)) s

/-- INC (R98). -/
def execInc (a _b : Word) (s : State) : Host.Outcome State Fault Refusal :=
  completeOk (sat (raw a + one)) s

/-- DEC (R99). -/
def execDec (a _b : Word) (s : State) : Host.Outcome State Fault Refusal :=
  completeOk (sat (raw a - one)) s

end Sys2Proof.Machine
end

