-- ==== Sys2Proof/Machine/Convert.lean ====
section
/-! DEFINITION. Conversion and comparison: FROMINT, TOINT, CMP (spec/40_conversion_compare.md). -/

namespace Sys2Proof.Machine

/-- FROMINT (R81): `wrap(a * 2^32)`, no overflow check. -/
def execFromint (a _b : Word) (s : State) : Host.Outcome State Fault Refusal :=
  completeOk (unflagged (integer a * 2 ^ 32)) s

/-- TOINT (R82): `a >> 32`, toward minus infinity, a plain integer. -/
def execToint (a _b : Word) (s : State) : Host.Outcome State Fault Refusal :=
  completeOk (unflagged (floorDiv (raw a) (2 ^ 32))) s

/-- The three-way comparison of R83, a plain integer. -/
def compare3 (x y : Int) : Int := if x < y then -1 else if x = y then 0 else 1

/-- CMP (R83). -/
def execCmp (a b : Word) (s : State) : Host.Outcome State Fault Refusal :=
  completeOk (unflagged (compare3 (raw a) (raw b))) s

end Sys2Proof.Machine
end

