-- ==== Sys2Proof/Machine/Fast.lean ====
section
/-! DEFINITION. Fast (unchecked) arithmetic: FADD, FSUB, FMUL, FMOD (spec/41_saturating_arithmetic.md
R100 to R103). -/

namespace Sys2Proof.Machine

/-- FADD (R100). -/
def execFadd (a b : Word) (s : State) : Host.Outcome State Fault Refusal :=
  completeOk (unflagged (fadd (raw a) (raw b))) s

/-- FSUB (R101). -/
def execFsub (a b : Word) (s : State) : Host.Outcome State Fault Refusal :=
  completeOk (unflagged (fsub (raw a) (raw b))) s

/-- FMUL (R102). -/
def execFmul (a b : Word) (s : State) : Host.Outcome State Fault Refusal :=
  completeOk (unflagged (fmul (raw a) (raw b))) s

/-- The unguarded remainder of R103: DIVZERO first, then REMOVF for the pair `MinValue`, `-1` (R219). -/
def fmodValue (x y : Int) : Except Err Int :=
  if y = 0 then .error .divzero
  else if x = minValue ∧ y = -1 then .error .removf
  else .ok (trem x y)

/-- FMOD (R103). -/
def execFmod (a b : Word) (s : State) : Host.Outcome State Fault Refusal :=
  completeValue (fmodValue (raw a) (raw b)) s

end Sys2Proof.Machine
end

