-- ==== Sys2Proof/Machine/Rounding.lean ====
section
/-! DEFINITION. Rounding and classification: FLOOR, CEIL, ROUND, TRUNC, SIGN, ABS, FABS
(spec/42_rounding_classification.md R121 to R127). -/

namespace Sys2Proof.Machine

/-- FLOOR (R121). -/
def execFloor (a _b : Word) (s : State) : Host.Outcome State Fault Refusal :=
  completeOk (unflagged (floorPart (raw a))) s

/-- The value and flag of R122. -/
def satCeil (x : Int) : Flagged := if frac x = 0 then unflagged x else sat (floorPart x + one)

/-- CEIL (R122). -/
def execCeil (a _b : Word) (s : State) : Host.Outcome State Fault Refusal :=
  completeOk (satCeil (raw a)) s

/-- ROUND (R123). -/
def execRound (a _b : Word) (s : State) : Host.Outcome State Fault Refusal :=
  completeOk (sat (roundExact (raw a))) s

/-- The value of R124: `one` is added only to a negative value with a non-zero fraction (conflict C1). -/
def truncValue (x : Int) : Int := if 0 ≤ x ∨ frac x = 0 then floorPart x else floorPart x + one

/-- TRUNC (R124). -/
def execTrunc (a _b : Word) (s : State) : Host.Outcome State Fault Refusal :=
  completeOk (unflagged (truncValue (raw a))) s

/-- SIGN (R125): a plain integer. -/
def execSign (a _b : Word) (s : State) : Host.Outcome State Fault Refusal :=
  completeOk (unflagged (sgn (raw a))) s

/-- The value and flag of R126: `MinValue` saturates. -/
def satAbs (x : Int) : Flagged := { value := absSat x, ovf := decide (x = minValue) }

/-- ABS (R126). -/
def execAbs (a _b : Word) (s : State) : Host.Outcome State Fault Refusal :=
  completeOk (satAbs (raw a)) s

/-- FABS (R127): the sign-mask form, so `MinValue` gives `MinValue`. -/
def execFabs (a _b : Word) (s : State) : Host.Outcome State Fault Refusal :=
  completeOk (unflagged (fabs (raw a))) s

end Sys2Proof.Machine
end

