-- ==== Sys2Proof/Machine/Series.lean ====
section
/-! DEFINITION. Series transcendentals: ATAN, ATAN2, ACOS, LOG2, LN, POW2, POW
(spec/45_series_transcendentals.md). Checked operators saturate silently inside a sequence, fast ones wrap, and a
raised error ends the command. -/

namespace Sys2Proof.Machine

/-- The loop of R177, at most the given number of passes; the term is tested after the four updates. -/
def atanLoop (zSq2 zSq12 : Int) :
    Nat → (dividend divisor term result : Int) → Except Err Int
  | 0, _, _, _, result => .ok result
  | n + 1, dividend, divisor, term, result => do
    let ratio ← div dividend divisor
    let term' := mul term ratio
    let result' := add result term'
    if term' = 0 then .ok result'
    else atanLoop zSq2 zSq12 n (add dividend zSq2) (add divisor zSq12) term' result'

/-- The sequence of R177 for `0 ≤ z ≤ one`: the series, times `z`, over `1 + z²`. -/
def atanSeries (z : Int) : Except Err Int := do
  let zSq := mul z z
  let zSq2 := mul zSq two
  let zp1 := add zSq one
  let zSq12 := mul zp1 two
  let sum ← atanLoop zSq2 zSq12 28 zSq2 (mul zp1 three) one one
  div (mul sum z) zp1

/-- R177 for `z > 0`: the reciprocal symmetry above `one`. -/
def atanPositive (z : Int) : Except Err Int :=
  if one < z then do
    let w ← div one z
    let r ← atanSeries w
    .ok (sub piOver2 r)
  else atanSeries z

/-- The value of ATAN (R177): the odd symmetry. -/
def atanValue (x : Int) : Except Err Int :=
  if x = 0 then .ok 0
  else if x < 0 then (atanPositive (neg x)).map neg
  else atanPositive x

/-- ATAN (R177). -/
def execAtan (a _b : Word) (s : State) : Host.Outcome State Fault Refusal :=
  completeValue (atanValue (raw a)) s

/-- The denominator `1 + 0.28 z²` of R183, evaluated as `((0.28 z) z)`. Log entry 18: each `mul` rounds toward −∞, so
the denominator reaches `MaxValue` from `z = 376136759264848` up and already from `z = -376136759264847` down. -/
def atan2Denominator (z : Int) : Int := add one (mul (mul c028 z) z)

/-- R183 for `x ≠ 0`, from the saturating quotient `z` on. Log entry 18 (DEDUCED): the short circuit is R183's test
of the denominator, which for a negative `z` fires one raw unit before the one threshold that R184 derives and
spec/90_conflicts.md C10 repeats. -/
def atan2Quotient (y x z : Int) : Except Err Int :=
  if atan2Denominator z = maxValue then
    .ok (if y < 0 then -piOver2 else piOver2)
  else if absSat z < one then do
    let at1 ← div z (atan2Denominator z)
    .ok (if x < 0 then (if y < 0 then sub at1 pi else add at1 pi) else at1)
  else do
    let d ← div z (add (mul z z) c028)
    .ok (if y < 0 then sub (sub piOver2 d) pi else sub piOver2 d)

/-- The value of ATAN2 (R183), `y` first. -/
def atan2Value (y x : Int) : Except Err Int :=
  if x = 0 then .ok (if 0 < y then piOver2 else if y = 0 then 0 else -piOver2)
  else do
    let z ← div y x
    atan2Quotient y x z

/-- ATAN2 (R183): `a` is `y`, `b` is `x`. -/
def execAtan2 (a b : Word) (s : State) : Host.Outcome State Fault Refusal :=
  completeValue (atan2Value (raw a) (raw b)) s

/-- The value of ACOS (R187): the range test comes first, its bounds inclusive. -/
def acosValue (x : Int) : Except Err Int :=
  if x < -one ∨ one < x then .error .domain
  else if x = 0 then .ok piOver2
  else do
    let root ← sqrt (sub one (mul x x))
    let ratio ← div root x
    let r ← atanValue ratio
    .ok (if x < 0 then add r pi else r)

/-- ACOS (R187). -/
def execAcos (a _b : Word) (s : State) : Host.Outcome State Fault Refusal :=
  completeValue (acosValue (raw a)) s

/-- `rx` and `y` of R190. -/
structure Normalised where
  rx : Int
  y : Int
  deriving DecidableEq, Repr

/-- `while rx < one : rx <- rx << 1 ; y <- y - one`, at most `n` times (R190: 32 suffice). -/
def normaliseUp : Nat → Normalised → Normalised
  | 0, v => v
  | n + 1, v => if v.rx < one then normaliseUp n { rx := v.rx * 2, y := v.y - one } else v

/-- `while rx ≥ 2 * one : rx <- rx >> 1 ; y <- y + one`, at most `n` times (R190: 30 suffice). -/
def normaliseDown : Nat → Normalised → Normalised
  | 0, v => v
  | n + 1, v =>
    if 2 * one ≤ v.rx then normaliseDown n { rx := floorDiv v.rx 2, y := v.y + one } else v

/-- Both normalising loops of R190. -/
def normalise (x : Int) : Normalised := normaliseDown 32 (normaliseUp 32 { rx := x, y := 0 })

/-- The squaring steps of R190; with `n` steps to go the bit's weight is `2^(n-1)`. -/
def squaringSteps : Nat → (z y : Int) → Int
  | 0, _, y => y
  | n + 1, z, y =>
    let z2 := fmul z z
    if 2 * one ≤ z2 then squaringSteps n (floorDiv z2 2) (y + 2 ^ n) else squaringSteps n z2 y

/-- The value of LOG2 (R190). -/
def log2Value (x : Int) : Except Err Int :=
  if x ≤ 0 then .error .domain
  else .ok (squaringSteps 32 (normalise x).rx (normalise x).y)

/-- LOG2 (R190). -/
def execLog2 (a _b : Word) (s : State) : Host.Outcome State Fault Refusal :=
  completeValue (log2Value (raw a)) s

/-- The value of LN (R193). -/
def lnValue (x : Int) : Except Err Int := (log2Value x).map (fun y => fmul y ln2)

/-- LN (R193). -/
def execLn (a _b : Word) (s : State) : Host.Outcome State Fault Refusal :=
  completeValue (lnValue (raw a)) s

/-- `term` and `result` of R195. -/
structure SeriesState where
  term : Int
  result : Int
  deriving DecidableEq, Repr

/-- `while term ≠ 0` of R195 with the counter `i`, at most `n` passes. Log entry 8: the term reaches zero long
before the bound. -/
def pow2Loop (f : Int) : Nat → Nat → SeriesState → Except Err SeriesState
  | 0, _, v => .ok v
  | n + 1, i, v =>
    if v.term = 0 then .ok v
    else do
      let term ← div (fmul (fmul f v.term) ln2) (fromInt i)
      pow2Loop f n (i + 1) { term := term, result := add v.result term }

/-- The bound on the passes of `pow2Loop`. Log entry 8. -/
def pow2Passes : Nat := 64

/-- The series of R195 for a magnitude `m`, shifted by the integer part of `m`. -/
def pow2Series (m : Int) : Except Err Int := do
  let v ← pow2Loop (frac m) pow2Passes 1 { term := one, result := one }
  .ok (wrap (v.result * 2 ^ (floorDiv m (2 ^ 32)).toNat))

/-- The value of POW2 (R195), its tests in the rule's order. -/
def pow2Value (x : Int) : Except Err Int :=
  if x = 0 then .ok one
  else if log2Max ≤ x then .ok maxValue
  else if x ≤ log2Min then .ok 0
  else if log2Max ≤ magnitude x then div one maxValue
  else if magnitude x = one then (if x < 0 then div one two else .ok two)
  else do
    let result ← pow2Series (magnitude x)
    if x < 0 then div one result else .ok result

/-- POW2 (R195). -/
def execPow2 (a _b : Word) (s : State) : Host.Outcome State Fault Refusal :=
  completeValue (pow2Value (raw a)) s

/-- The value of POW (R200), its tests in the rule's order. -/
def powValue (bs ex : Int) : Except Err Int :=
  if bs = one then .ok one
  else if ex = 0 then .ok one
  else if bs = 0 then (if ex < 0 then .error .divzero else .ok 0)
  else do
    let l ← log2Value bs
    pow2Value (mul ex l)

/-- POW (R200): `a` is the base, `b` the exponent. -/
def execPow (a b : Word) (s : State) : Host.Outcome State Fault Refusal :=
  completeValue (powValue (raw a) (raw b)) s

end Sys2Proof.Machine
end

