-- ==== Sys2Proof/Machine/Sqrt.lean ====
section
/-! DEFINITION. Square root: SQRT (spec/43_sqrt.md R136). -/

namespace Sys2Proof.Machine

/-- SQRT (R136). -/
def execSqrt (a _b : Word) (s : State) : Host.Outcome State Fault Refusal :=
  completeValue (sqrt (raw a)) s

end Sys2Proof.Machine
end

