-- ==== Sys2Proof/Machine/Trig.lean ====
section
/-! DEFINITION. Trigonometry: the angle reducers, the table interpolator, and SIN, COS, TAN, FSIN, FCOS
(spec/44_trig.md). Every value function takes its table as an argument; the commands pass the ROM's. -/

namespace Sys2Proof.Machine

/-- A reduced angle with its horizontal-flip and vertical-flip flags (R146). -/
structure ReducedAngle where
  q : Int
  fh : Bool
  fv : Bool
  deriving DecidableEq, Repr

/-- The 29 truncating remainders of R146, by the moduli `LargePi >> i`, `i = 0 .. 28`. -/
def remainderChain (angle : Int) : Int :=
  (List.range 29).foldl (fun c i => trem c (reducerModulus i)) angle

/-- The angle brought into `[0, PiTimes2]`: the test is on the original operand (R146). -/
def turnAngle (angle : Int) : Int :=
  if angle < 0 then remainderChain angle + piTimes2 else remainderChain angle

/-- `while c ≥ Pi : c <- c - Pi`, at most `n` times; R147 item 3: two suffice. -/
def foldPi : Nat → Int → Int
  | 0, c => c
  | n + 1, c => if pi ≤ c then foldPi n (c - pi) else c

/-- `reduce_sin` (R146). -/
def reduceSin (angle : Int) : ReducedAngle :=
  let c := turnAngle angle
  let h := foldPi 2 c
  { q := if piOver2 ≤ h then h - piOver2 else h, fh := decide (piOver2 ≤ h), fv := decide (pi ≤ c) }

/-- The position of a reduced angle in index space (R149). -/
def indexOf (q : Int) : Int := fmul q lutInterval

/-- `e`, the fractional index error of R150. -/
def indexError (q : Int) : Int := fsub (indexOf q) (roundSat (indexOf q))

/-- `ri`, the rounded index of R150. -/
def nearIndex (q : Int) : Int := floorDiv (roundSat (indexOf q)) (2 ^ 32)

/-- The index of the first entry read by R150. -/
def firstRead (q : Int) (mirror : Bool) : Int :=
  if mirror then (lutLength : Int) - 1 - nearIndex q else nearIndex q

/-- The index of the second entry read by R150. -/
def secondRead (q : Int) (mirror : Bool) : Int :=
  if mirror then (lutLength : Int) - 1 - nearIndex q - sgn (indexError q)
  else nearIndex q + sgn (indexError q)

/-- `interp(T, q, mirror)` (R150). -/
def interp (t : Lut) (q : Int) (mirror : Bool) : Int :=
  let near := readLut t (firstRead q mirror)
  let sec := readLut t (secondRead q mirror)
  let delta := fmul (indexError q) (fabs (fsub near sec))
  if mirror then wrap (near - delta) else wrap (near + delta)

/-- The plain two's-complement negation on a flip (R155, R160, R164). -/
def flipIf (flip : Bool) (v : Int) : Int := if flip then wrap (-v) else v

/-- The value of SIN (R155). -/
def sinValue (t : Lut) (x : Int) : Int :=
  let r := reduceSin x
  flipIf r.fv (interp t r.q r.fh)

/-- SIN (R155). -/
def execSin (a _b : Word) (s : State) : Host.Outcome State Fault Refusal :=
  completeOk (unflagged (sinValue Config.sinLut (raw a))) s

/-- The angle adjustment of COS and FCOS (R157, R161); zero goes with the non-positive values. -/
def cosAngle (x : Int) : Int := if 0 < x then wrap (x - pi - piOver2) else wrap (x + piOver2)

/-- COS (R157). -/
def execCos (a _b : Word) (s : State) : Host.Outcome State Fault Refusal :=
  completeOk (unflagged (sinValue Config.sinLut (cosAngle (raw a)))) s

/-- The clamped table index of FSIN (R160). -/
def fastIndex (q : Int) : Int :=
  let ri := floorDiv q (2 ^ 15)
  if (lutLength : Int) ≤ ri then (lutLength : Int) - 1 else ri

/-- The index of the entry FSIN reads (R160). -/
def fastRead (r : ReducedAngle) : Int :=
  if r.fh then (lutLength : Int) - 1 - fastIndex r.q else fastIndex r.q

/-- The value of FSIN (R160). -/
def fastSinValue (t : Lut) (x : Int) : Int :=
  let r := reduceSin x
  flipIf r.fv (readLut t (fastRead r))

/-- FSIN (R160). -/
def execFsin (a _b : Word) (s : State) : Host.Outcome State Fault Refusal :=
  completeOk (unflagged (fastSinValue Config.sinLut (raw a))) s

/-- FCOS (R161). -/
def execFcos (a _b : Word) (s : State) : Host.Outcome State Fault Refusal :=
  completeOk (unflagged (fastSinValue Config.sinLut (cosAngle (raw a)))) s

/-- A reduced tangent angle with its flip flag (R162). -/
structure ReducedTangent where
  c : Int
  flip : Bool
  deriving DecidableEq, Repr

/-- `reduce_tan` (R162). -/
def reduceTan (angle : Int) : ReducedTangent :=
  let c := trem angle pi
  let c1 := if c < 0 then -c else c
  let f1 := decide (c < 0)
  if piOver2 < c1 then { c := piOver2 - (c1 - piOver2), flip := !f1 } else { c := c1, flip := f1 }

/-- The value of TAN (R164). -/
def tanValue (t : Lut) (x : Int) : Int :=
  let r := reduceTan x
  flipIf r.flip (interp t r.c false)

/-- TAN (R164). -/
def execTan (a _b : Word) (s : State) : Host.Outcome State Fault Refusal :=
  completeOk (unflagged (tanValue Config.tanLut (raw a))) s

end Sys2Proof.Machine
end

