-- ==== Sys2Proof/Machine/Dispatch.lean ====
section
/-! DEFINITION. The meaning of every command: one direct call an arm. -/

namespace Sys2Proof.Machine

/-- The completion of a command in a state: its response is computed from the operands and the ROM and written to
the response registers (spec/10_state.md R26, R32). -/
def exec (i : Instr) (s : State) : Host.Outcome State Fault Refusal :=
  match i with
  | .fromint a b => Sys2Proof.Machine.execFromint a b s
  | .toint a b => Sys2Proof.Machine.execToint a b s
  | .cmp a b => Sys2Proof.Machine.execCmp a b s
  | .add a b => Sys2Proof.Machine.execAdd a b s
  | .sub a b => Sys2Proof.Machine.execSub a b s
  | .mul a b => Sys2Proof.Machine.execMul a b s
  | .div a b => Sys2Proof.Machine.execDiv a b s
  | .mod a b => Sys2Proof.Machine.execMod a b s
  | .neg a b => Sys2Proof.Machine.execNeg a b s
  | .inc a b => Sys2Proof.Machine.execInc a b s
  | .dec a b => Sys2Proof.Machine.execDec a b s
  | .fadd a b => Sys2Proof.Machine.execFadd a b s
  | .fsub a b => Sys2Proof.Machine.execFsub a b s
  | .fmul a b => Sys2Proof.Machine.execFmul a b s
  | .fmod a b => Sys2Proof.Machine.execFmod a b s
  | .floor a b => Sys2Proof.Machine.execFloor a b s
  | .ceil a b => Sys2Proof.Machine.execCeil a b s
  | .round a b => Sys2Proof.Machine.execRound a b s
  | .trunc a b => Sys2Proof.Machine.execTrunc a b s
  | .sign a b => Sys2Proof.Machine.execSign a b s
  | .abs a b => Sys2Proof.Machine.execAbs a b s
  | .fabs a b => Sys2Proof.Machine.execFabs a b s
  | .sqrt a b => Sys2Proof.Machine.execSqrt a b s
  | .sin a b => Sys2Proof.Machine.execSin a b s
  | .cos a b => Sys2Proof.Machine.execCos a b s
  | .tan a b => Sys2Proof.Machine.execTan a b s
  | .fsin a b => Sys2Proof.Machine.execFsin a b s
  | .fcos a b => Sys2Proof.Machine.execFcos a b s
  | .atan a b => Sys2Proof.Machine.execAtan a b s
  | .atan2 a b => Sys2Proof.Machine.execAtan2 a b s
  | .acos a b => Sys2Proof.Machine.execAcos a b s
  | .log2 a b => Sys2Proof.Machine.execLog2 a b s
  | .ln a b => Sys2Proof.Machine.execLn a b s
  | .pow2 a b => Sys2Proof.Machine.execPow2 a b s
  | .pow a b => Sys2Proof.Machine.execPow a b s

end Sys2Proof.Machine
end

