-- ==== Sys2Proof/Machine/Control.lean ====
section
/-! DEFINITION. How commands come to be executed: completion of the latched command, the timeless step
(spec/10_state.md R32, spec/70_reset_and_hazards.md R247) and the timed machine, one clock edge at a time
(spec/10_state.md R26, spec/70_reset_and_hazards.md R235, R236, R245, R246). -/

namespace Sys2Proof.Machine

/-- The command in the latches `OPR`, `A`, `B` completes: an assigned opcode has its meaning, a reserved one
responds ILLOP (spec/30_encoding.md R67, spec/60_exceptions.md R213, R219). -/
def completeLatched (s : State) : Host.Outcome State Fault Refusal :=
  match decodeFields s.opr s.a s.b with
  | .ok i => exec i s
  | .error (.reservedOpcode _) => illegalCommand s

/-- What the host drives next meets an idle block: reset, or a command accepted and completed at once, or nothing
(spec/10_state.md R26, spec/30_encoding.md R61, spec/70_reset_and_hazards.md R235, R247). -/
def takePins (p : Pins) (s : State) : Host.Outcome State Fault Refusal :=
  if p.rst then .next (resetRegisters s)
  else if p.cmdValid then completeLatched (accept p s)
  else .next (idle s)

/-- The timeless step (log entries 1 to 3). A command in flight completes, unless the host drives `rst`; an idle
block takes what the host drives next; when the host drives nothing more the block idles. -/
def hostStep (s : State) : Host.Outcome State Fault Refusal :=
  match s.host with
  | [] => if s.busy then completeLatched s else .next (idle s)
  | p :: rest =>
    if s.busy && !p.rst then completeLatched s
    else takePins p (withHost rest s)

/-- The host presents a command word next, to a block that is ready for it (log entry 2): the block is idle and the
word is the next thing on the input ports. A number with a bit above bit 133 is no command word and nothing is
presented (log entry 9). -/
def presentWord (s : State) (nbits w : Nat) : State :=
  match tableCommandWord nbits w with
  | some cw => { s with busy := false, wait := 0, host := commandPins cw :: s.host }
  | none => s

/-! ### The timed machine -/

/-- A clock edge of a busy block: the last one of its latency completes the command (spec/10_state.md R26). -/
def busyEdge (s : State) : Host.Outcome State Fault Refusal :=
  if s.wait ≤ 1 then completeLatched s else .next { s with wait := s.wait - 1 }

/-- One rising edge of `clk` with the given values on the input ports (spec/30_encoding.md R61,
spec/70_reset_and_hazards.md R235, R236, R245): reset first; else a busy block goes on; else a valid command is
accepted, and with a latency of 1 the same edge completes it. `s.host` plays no part. -/
def clockEdge (p : Pins) (s : State) : Host.Outcome State Fault Refusal :=
  if p.rst then .next (resetRegisters s)
  else if s.busy then busyEdge (idle s)
  else if p.cmdValid then busyEdge (accept p s)
  else .next (idle s)

/-- The clock edges of successive cycles. -/
def clockEdges : List Pins → State → Host.Outcome State Fault Refusal
  | [], s => .next s
  | p :: ps, s =>
    match clockEdge p s with
    | .next t => clockEdges ps t
    | .fault f => .fault f
    | .refused r => .refused r

end Sys2Proof.Machine
end

