-- ==== Sys2Proof/Machine/Step.lean ====
section
/-! DEFINITION. One step of FXALU and the placing of a command where the next step takes it. -/

namespace Sys2Proof.Machine

/-- One step: "accept one command and produce its response" (spec/00_scope.md R15, spec/10_state.md R32). -/
def step (s : State) : Host.Outcome State Fault Refusal := hostStep s

/-- `s` with the command whose bits are `w` presented next by the host (log entry 2). -/
def State.withFetchWord (s : State) (nbits w : Nat) : State := presentWord s nbits w

end Sys2Proof.Machine
end

