-- ==== Sys2Proof/Machine/Procedures.lean ====
section
/-! DEFINITION. The procedures spec/41_saturating_arithmetic.md R104 to R106 and spec/43_sqrt.md R138 write out. They
are informative: no command's meaning uses them, and the statements say that they compute the contracts. Log
entry 13. -/

namespace Sys2Proof.Machine

/-- ADD's overflow test: bit 63 of `~(a ^ b) & (a ^ s)` (R104). -/
def addOverflowBit (a b : Word) : Bool := (~~~(a ^^^ b) &&& (a ^^^ (a + b))).getLsbD 63

/-- SUB's overflow test: bit 63 of `(a ^ b) & (a ^ d)` (R104). -/
def subOverflowBit (a b : Word) : Bool := ((a ^^^ b) &&& (a ^^^ (a - b))).getLsbD 63

/-- What an overflow delivers, by the sign of `a` (R104). -/
def overflowClamp (a : Word) : Word :=
  if 0 ≤ raw a then wordOf maxValue else wordOf minValue

/-- Saturating addition by the sign-bit test (R104). -/
def addBySignBits (a b : Word) : Word := if addOverflowBit a b then overflowClamp a else a + b

/-- Saturating subtraction by the sign-bit test (R104). -/
def subBySignBits (a b : Word) : Word := if subOverflowBit a b then overflowClamp a else a - b

/-- The low half `a[31:0]`, unsigned (R105). -/
def lowHalf (a : Word) : Int := (a.extractLsb' 0 32).toNat

/-- The high half `a >> 32`, signed (R105). -/
def highHalf (a : Word) : Int := (a.extractLsb' 32 32).toInt

/-- The sum of the four partial products with the low 32 bits of the lowest one dropped (R105). -/
def partialProducts (a b : Word) : Int :=
  highHalf a * highHalf b * 2 ^ 32 + lowHalf a * highHalf b + highHalf a * lowHalf b
    + floorDiv (lowHalf a * lowHalf b) (2 ^ 32)

/-- The variables of the restoring division (R106). -/
structure DivState where
  rem : Nat
  quo : Nat
  pos : Int
  deriving DecidableEq, Repr

/-- `leading_zero_count` of a 64-bit word. -/
def leadingZeros (n : Nat) : Nat := if n = 0 then 64 else 63 - n.log2

/-- `while dv[3:0] = 0 and pos ≥ 4` of R106, at most `n` times: the divisor and the bit position. -/
def divNibbles : Nat → Nat → Int → Nat × Int
  | 0, dv, pos => (dv, pos)
  | n + 1, dv, pos => if dv % 16 = 0 ∧ 4 ≤ pos then divNibbles n (dv / 16) (pos - 4) else (dv, pos)

/-- The quotient loop of R106, at most `n` passes; `none` is the overflow exit. -/
def divLoop (dv : Nat) : Nat → DivState → Option Nat
  | 0, v => some v.quo
  | n + 1, v =>
    if v.rem ≠ 0 ∧ 0 ≤ v.pos then
      let sh := min (leadingZeros v.rem) v.pos.toNat
      let rem := v.rem * 2 ^ sh
      let pos := v.pos.toNat - sh
      let d := rem / dv
      if 2 ^ 64 ≤ d * 2 ^ pos then none
      else divLoop dv n { rem := rem % dv * 2, quo := v.quo + d * 2 ^ pos, pos := (pos : Int) - 1 }
    else some v.quo

/-- Restoring long division (R106): the result as a raw value, for `y ≠ 0`. The loops take at most 8 and 34
passes. -/
def divByRestoring (x y : Int) : Int :=
  let agree := decide (x < 0) = decide (y < 0)
  let dp := divNibbles 8 y.natAbs 33
  match divLoop dp.1 34 { rem := x.natAbs, quo := 0, pos := dp.2 } with
  | none => if agree then maxValue else minValue
  | some quo => if agree then ((quo + 1) / 2 : Nat) else -((quo + 1) / 2 : Nat)

/-- The variables of the root extraction (R138). -/
structure RootState where
  num : Nat
  res : Nat
  deriving DecidableEq, Repr

/-- The digit steps of R138: `bit` runs through `4^(n-1), …, 4, 1`. -/
def rootDigits : Nat → RootState → RootState
  | 0, v => v
  | n + 1, v =>
    if v.res + 4 ^ n ≤ v.num then
      rootDigits n { num := v.num - (v.res + 4 ^ n), res := v.res / 2 + 4 ^ n }
    else rootDigits n { num := v.num, res := v.res / 2 }

/-- `while bit > num : bit <- bit >> 2`, from `bit = 4^(n-1)` down: how many digit steps remain (R138). -/
def rootStart (num : Nat) : Nat → Nat
  | 0 => 0
  | n + 1 => if num < 4 ^ n then rootStart num n else n + 1

/-- The rescaling between the two passes, with its correction branch, on unsigned 64-bit words (R138). Log entry 19:
the correction, as R138 writes it, takes 2^31 off the remainder, where the square of a root with one more half-bit
would take 2^30. -/
def rootRescale (v : RootState) : RootState :=
  if 2 ^ 32 - 1 < v.num then
    { num := ((v.num - v.res) * 2 ^ 32 - 0x80000000) % 2 ^ 64, res := (v.res * 2 ^ 32 + 0x80000000) % 2 ^ 64 }
  else { num := v.num * 2 ^ 32 % 2 ^ 64, res := v.res * 2 ^ 32 % 2 ^ 64 }

/-- Digit-by-digit square root (R138) of a non-negative raw value. Log entry 19 (DEDUCED): where the correction branch
is taken the result can be one less than SQRT's, against what R138 says of it. -/
def sqrtByDigits (x : Nat) : Nat :=
  let first := rootDigits (rootStart x 32) { num := x, res := 0 }
  let second := rootDigits 16 (rootRescale first)
  if second.res < second.num then second.res + 1 else second.res

end Sys2Proof.Machine
end

