-- ==== Sys2Proof/Safety.lean ====
section
/-! DEFINITION. What a run of FXALU keeps, in the terms the statements use. -/

namespace Sys2Proof.Machine

/-- The state after a completed command: the response registers hold the given response, `RVALID` is set, `BUSY` is
clear, `rsp_valid` is high, and everything else is as before (spec/10_state.md R26, spec/60_exceptions.md R214). -/
def answered (s : State) (res : Word) (ovf : Bool) (err : BitVec 3) : State :=
  { s with res := res, ovf := ovf, err := err, rvalid := true, busy := false, rspValid := true, wait := 0 }

/-- The state in which a command on the input ports has just been accepted and the host has gone on to `rest`: the
latches hold the command, everything else is as before (spec/10_state.md R26). -/
def accepted (s : State) (p : Pins) (rest : List Pins) : State :=
  { s with opr := p.cmdOp, a := p.cmdA, b := p.cmdB, busy := true, rspValid := false,
           wait := latency p.cmdOp p.cmdA p.cmdB, host := rest }

/-- The response of a command as a function of the command and the ROM: the function `exec` of spec/10_state.md R32,
read off a completion from reset. -/
def response (i : Instr) : Response :=
  match exec i State.reset with
  | .next t => responseOf t
  | .fault f => nomatch f
  | .refused _ => { res := 0, ovf := false, err := 7 }

/-- An integer brought into the range of a raw value, by `min` and `max` (spec/00_scope.md R10). -/
def clampRange (t : Int) : Int := max (-(2 ^ 63)) (min (2 ^ 63 - 1) t)

/-- An integer is outside the range of a raw value (spec/00_scope.md R10). -/
def overflows (t : Int) : Bool := decide (t < -(2 ^ 63) ∨ 2 ^ 63 ≤ t)

/-- `ERR` holds one of the five codes of spec/60_exceptions.md R210. -/
def ErrLegal (s : State) : Prop := s.err.toNat ≤ 4

/-- An error response carries neither a result nor the flag (spec/60_exceptions.md R214, R233). -/
def ErrorsEmpty (s : State) : Prop := s.err ≠ 0 → s.res = 0 ∧ s.ovf = false

/-- The flag is up only on a clamped result (spec/10_state.md R25). -/
def FlagMeansClamped (s : State) : Prop :=
  s.ovf = true → s.res = wordOf maxValue ∨ s.res = wordOf minValue

/-- Before the first response the response registers are as reset left them
(spec/10_state.md R31, spec/70_reset_and_hazards.md R237). -/
def UnansweredIsReset (s : State) : Prop :=
  s.rvalid = false → s.res = 0 ∧ s.ovf = false ∧ s.err = 0 ∧ s.rspValid = false

/-- `rsp_valid` is high only in the cycle after a completion, when `BUSY` is 0
(spec/70_reset_and_hazards.md R245). -/
def PulseAfterCompletion (s : State) : Prop := s.rspValid = true → s.rvalid = true ∧ s.busy = false

/-- A command is in flight exactly while clock edges are still to come for it (log entry 5). -/
def WaitMatchesBusy (s : State) : Prop := s.busy = true ↔ 1 ≤ s.wait

/-- At rest after a response, the response registers hold the response of the latched command: completing it again
changes nothing but the pulse (spec/00_scope.md R16, spec/70_reset_and_hazards.md R249). -/
def ResponseOfLatches (s : State) : Prop :=
  s.rvalid = true → s.busy = false → completeLatched s = .next { s with rspValid := true }

/-- The invariant of FXALU. -/
structure Inv (s : State) : Prop where
  errLegal : ErrLegal s
  errorsEmpty : ErrorsEmpty s
  flagMeansClamped : FlagMeansClamped s
  unansweredIsReset : UnansweredIsReset s
  pulseAfterCompletion : PulseAfterCompletion s
  waitMatchesBusy : WaitMatchesBusy s
  responseOfLatches : ResponseOfLatches s

end Sys2Proof.Machine
end

