-- ==== Sys2Proof/Certificates/Slice0/Obligations.lean ====
section
/-! DEFINITION. The statements for the provers. Commands' results are stated on the bits or integers of their
operands, without the model's own operations where the rule gives a closed formula; `answered` says everything a
completion changes, so every equation with it is a frame too. -/

open Sys2Proof Sys2Proof.Machine

/-! ### Encoding -/

/-- Every command is well-formed, and decoding its word gives it back, with both operands at every value
(R60, R64, R68). -/
def Obligations.DecodeOfEncodeIsTheCommand : Prop :=
  ∀ i : Instr, i.wellFormed = true ∧ decode (encode i) = .ok i

/-- A word that decodes to a command is that command's word: no bit of a command word is dropped (R60, R68). -/
def Obligations.EncodeOfDecodeIsTheWord : Prop :=
  ∀ (cw : CommandWord) (i : Instr), decode cw = .ok i → encode i = cw

/-- Decoding rejects exactly the 29 reserved opcodes, by name, whatever the operands (R67, R68). -/
def Obligations.DecodeRejectsExactlyReserved : Prop :=
  ∀ cw : CommandWord, decode cw = .error (.reservedOpcode (cw.extractLsb' 128 6)) ↔
    cw.extractLsb' 128 6 ∈ ([0x00, 0x04, 0x05, 0x06, 0x07, 0x13, 0x15, 0x16, 0x17, 0x1F, 0x21, 0x22, 0x23, 0x24,
      0x25, 0x26, 0x27, 0x2B, 0x2E, 0x2F, 0x33, 0x38, 0x39, 0x3A, 0x3B, 0x3C, 0x3D, 0x3E, 0x3F] : List Opcode)

/-- Words written out in spec/95_test_vectors.md decode to the commands they are listed as. -/
def Obligations.WrittenWordsDecode : Prop :=
  decode 0x0800000003000000000000000500000000 = .ok (.add 0x300000000 0x500000000) ∧
  decode 0x1A00000002800000000000000000000000 = .ok (.round 0x280000000 0) ∧
  decode 0x340000000400000000FFFFFFF900000000 = .ok (.log2 0x400000000 0xFFFFFFF900000000) ∧
  decode 0x148000000000000000FFFFFFFFFFFFFFFF = .ok (.fmod 0x8000000000000000 0xFFFFFFFFFFFFFFFF) ∧
  decode 0x1300000006000000000000000300000000 = .error (.reservedOpcode 0x13)

/-- The response word is `err`, `ovf`, `res` from the top down (R62). -/
def Obligations.ResponseWordFields : Prop :=
  ∀ s : State, (responseWord s).extractLsb' 65 3 = s.err ∧ (responseWord s).getLsbD 64 = s.ovf ∧
    (responseWord s).extractLsb' 0 64 = s.res

/-! ### The step -/

/-- A step of an idle block with a valid command on its ports runs the decoded command in the state of its
acceptance; a step of a busy block runs the command in its latches and leaves the host's list (log entry 3); a step
with `rst` resets; with no valid command, or nothing more from the host, the block idles (log entry 2). -/
def Obligations.StepRunsTheDecodedCommand : Prop :=
  (∀ (s : State) (p : Pins) (rest : List Pins) (i : Instr),
    s.busy = false → s.host = p :: rest → p.rst = false → p.cmdValid = true →
    decode (CommandWord.pack p.cmdOp p.cmdA p.cmdB) = .ok i →
    step s = exec i (accepted s p rest)) ∧
  (∀ (s : State) (i : Instr), s.busy = true → (∀ p, s.host.head? = some p → p.rst = false) →
    decode (CommandWord.pack s.opr s.a s.b) = .ok i → step s = exec i s) ∧
  (∀ (s : State) (p : Pins) (rest : List Pins), s.host = p :: rest → p.rst = true →
    step s = .next { State.reset with host := rest }) ∧
  (∀ (s : State) (p : Pins) (rest : List Pins), s.busy = false → s.host = p :: rest → p.rst = false →
    p.cmdValid = false → step s = .next { s with rspValid := false, host := rest }) ∧
  (∀ s : State, s.busy = false → s.host = [] → step s = .next { s with rspValid := false })

/-- A command placed by `withFetchWord` is the one the next step runs (the model's choice, log entries 2 and 9). -/
def Obligations.PlacedCommandRunsNext : Prop :=
  ∀ (s : State) (nbits w : Nat) (i : Instr), decodeTableWord nbits w = some i →
    step (s.withFetchWord nbits w) =
      exec i (accepted { s with busy := false, wait := 0 }
        { rst := false, cmdValid := true, cmdOp := i.mnemonic.opcode, cmdA := i.operandA, cmdB := i.operandB } s.host)

/-- A command with a reserved opcode is accepted and completes with ILLOP, whatever its operands (R213). -/
def Obligations.ReservedOpcodeRespondsIllop : Prop :=
  ∀ (s : State) (p : Pins) (rest : List Pins),
    s.busy = false → s.host = p :: rest → p.rst = false → p.cmdValid = true →
    p.cmdOp ∈ ([0x00, 0x04, 0x05, 0x06, 0x07, 0x13, 0x15, 0x16, 0x17, 0x1F, 0x21, 0x22, 0x23, 0x24,
      0x25, 0x26, 0x27, 0x2B, 0x2E, 0x2F, 0x33, 0x38, 0x39, 0x3A, 0x3B, 0x3C, 0x3D, 0x3E, 0x3F] : List Opcode) →
    step s = .next (answered (accepted s p rest) 0 false 3)

/-- Every command completes, and its response is a function of the command and the ROM alone
(R16, R32, R249). -/
def Obligations.ResponseDependsOnCommandAlone : Prop :=
  ∀ (i : Instr) (s : State),
    exec i s = .next (answered s (response i).res (response i).ovf (response i).err)

/-- A one-operand command ignores `b` (R65). -/
def Obligations.UnusedOperandIsIgnored : Prop :=
  ∀ (m : Mnemonic) (a b b' : Word) (s : State), m.operandCount = 1 →
    exec (m.instr a b) s = exec (m.instr a b') s

/-! ### Reset and invariants -/

/-- Reset leaves every register zero and the block ready (R31, R235). -/
def Obligations.ResetLeavesRegistersZero : Prop :=
  State.reset.opr = 0 ∧ State.reset.a = 0 ∧ State.reset.b = 0 ∧ State.reset.res = 0 ∧ State.reset.ovf = false ∧
    State.reset.err = 0 ∧ State.reset.rvalid = false ∧ State.reset.busy = false

/-- A clock edge with `rst = 1` resets every register, whatever was in flight and whatever `cmd_valid` is; the block
is then ready and no response pulses (R235, R236). -/
def Obligations.ResetEdgeAbandonsCommand : Prop :=
  ∀ (p : Pins) (s : State), p.rst = true →
    ∃ t, clockEdge p s = .next t ∧ t.opr = 0 ∧ t.a = 0 ∧ t.b = 0 ∧ t.res = 0 ∧ t.ovf = false ∧ t.err = 0 ∧
      t.rvalid = false ∧ t.busy = false ∧ cmdReady t = true ∧ t.rspValid = false

/-- The invariant holds at reset. -/
def Obligations.ResetMeetsInvariant : Prop := Inv State.reset

/-- Every step keeps the invariant: legal error codes, empty error responses, the flag only on clamped results, the
pulse only after a completion, and response registers that are the response of the latched command. -/
def Obligations.StepKeepsInvariant : Prop :=
  ∀ s t : State, Inv s → step s = .next t → Inv t

/-- Every clock edge keeps the invariant, whatever the host drives. -/
def Obligations.ClockEdgeKeepsInvariant : Prop :=
  ∀ (p : Pins) (s t : State), Inv s → clockEdge p s = .next t → Inv t

/-! ### The timed machine -/

/-- `LAT` clock edges after a command is presented to an idle block, the timed machine is in the state one timeless
step reaches (the spec's own inference R247, log entry 1); every `LAT` is at least 1 and one constant bounds them all
(R246). -/
def Obligations.TimedMachineRefinesStep : Prop :=
  (∀ (s : State) (p : Pins) (ps : List Pins),
    s.busy = false → p.rst = false → p.cmdValid = true → (∀ q ∈ ps, q.rst = false) →
    ps.length + 1 = latency p.cmdOp p.cmdA p.cmdB →
    ∃ t, step { s with host := p :: s.host } = .next t ∧ clockEdges (p :: ps) s = .next t ∧ t.rspValid = true) ∧
  (∃ latMax : Nat, ∀ (op : Opcode) (a b : Word), 1 ≤ latency op a b ∧ latency op a b ≤ latMax)

/-- While clock edges are still to come for the command in flight the block stays busy and not ready, its latches and
its response registers keep their values, and nothing the host presents is accepted (R26; the count `wait` is the
model's own, log entry 5). -/
def Obligations.BusyBlockHoldsResponse : Prop :=
  ∀ (s : State) (ps : List Pins),
    s.busy = true → (∀ q ∈ ps, q.rst = false) → ps.length < s.wait → s.rspValid = false →
    clockEdges ps s = .next { s with wait := s.wait - ps.length } ∧
    cmdReady { s with wait := s.wait - ps.length } = false

/-- In the cycle of the response pulse the block is ready, and a valid command is accepted at its end (R245). -/
def Obligations.BackToBackAccept : Prop :=
  ∀ (s : State) (p : Pins), Inv s → s.rspValid = true → p.rst = false → p.cmdValid = true →
    cmdReady s = true ∧
    ∃ t, clockEdge p s = .next t ∧ t.opr = p.cmdOp ∧ t.a = p.cmdA ∧ t.b = p.cmdB ∧ t.rvalid = true ∧
      (t.busy = true ↔ 2 ≤ latency p.cmdOp p.cmdA p.cmdB)

/-! ### Errors and the flag -/

/-- The `ERR` codes a command can respond with, by opcode (the table of R233). -/
def errCodesOf (op : Opcode) : List (BitVec 3) :=
  match op with
  | 0x0B => [0, 1]
  | 0x0C => [0, 1]
  | 0x14 => [0, 1, 4]
  | 0x20 => [0, 2]
  | 0x32 => [0, 2]
  | 0x34 => [0, 2]
  | 0x35 => [0, 2]
  | 0x37 => [0, 1, 2]
  | _ => match mnemonicOf op with
    | some _ => [0]
    | none => [3]

/-- The commands that can set `OVF`, by opcode: ADD SUB MUL DIV NEG INC DEC CEIL ROUND ABS (the table of R233). -/
def flagOpcodes : List Opcode := [0x08, 0x09, 0x0A, 0x0B, 0x0D, 0x0E, 0x0F, 0x19, 0x1A, 0x1D]

/-- The table of R233, the spec's own inference from the command rules: the codes each opcode can respond with are
exactly the listed ones, the opcodes that can set the flag are exactly the listed ones, and an error response has
neither flag nor result. -/
def Obligations.ErrorAndFlagTable : Prop :=
  (∀ (op : Opcode) (e : BitVec 3), e ∈ errCodesOf op ↔
    ∃ s t : State, s.opr = op ∧ completeLatched s = .next t ∧ t.err = e) ∧
  (∀ op : Opcode, op ∈ flagOpcodes ↔
    ∃ s t : State, s.opr = op ∧ completeLatched s = .next t ∧ t.ovf = true) ∧
  (∀ s t : State, completeLatched s = .next t → t.err ≠ 0 → t.ovf = false ∧ t.res = 0)

/-! ### Conversion and comparison -/

/-- FROMINT keeps the low 64 bits of `a * 2^32`: `RES[63:32] = a[31:0]`, the rest zero (R81). -/
def Obligations.FromintShiftsLeft : Prop :=
  ∀ (a b : Word) (s : State), exec (.fromint a b) s = .next (answered s (a <<< 32) false 0)

/-- TOINT is the arithmetic shift by 32 (R82). -/
def Obligations.TointShiftsRight : Prop :=
  ∀ (a b : Word) (s : State), exec (.toint a b) s = .next (answered s (a.sshiftRight 32) false 0)

/-- CMP is the signed three-way comparison as a plain integer (R83). -/
def Obligations.CmpOrdersSigned : Prop :=
  ∀ (a b : Word) (s : State), exec (.cmp a b) s =
    .next (answered s (if a.slt b then -1 else if a = b then 0 else 1) false 0)

/-- The four laws of R84, the spec's own inference from R81 to R83. -/
def Obligations.ConversionLaws : Prop :=
  (∀ (k b b' : Word), -(2 ^ 31) ≤ k.toInt → k.toInt < 2 ^ 31 →
    (response (.toint (response (.fromint k b)).res b')).res = k) ∧
  (∀ a b b' b'' : Word, (response (.fromint (response (.toint a b)).res b')).res = (response (.floor a b'')).res) ∧
  (∀ a b : Word, (response (.cmp a b)).res = -(response (.cmp b a)).res) ∧
  (∀ a b c : Word, (response (.cmp a b)).res.toInt ≤ 0 → (response (.cmp b c)).res.toInt ≤ 0 →
    (response (.cmp a c)).res.toInt ≤ 0)

/-! ### Checked arithmetic -/

/-- ADD and SUB answer the clamped exact sum and difference, flagged exactly when out of range (R91, R92). -/
def Obligations.AddSubSaturate : Prop :=
  ∀ (a b : Word) (s : State),
    exec (.add a b) s = .next (answered s (BitVec.ofInt 64 (clampRange (a.toInt + b.toInt)))
      (overflows (a.toInt + b.toInt)) 0) ∧
    exec (.sub a b) s = .next (answered s (BitVec.ofInt 64 (clampRange (a.toInt - b.toInt)))
      (overflows (a.toInt - b.toInt)) 0)

/-- MUL answers the clamped floored product, flagged exactly when that is out of range (R93). -/
def Obligations.MulSaturatesFlooredProduct : Prop :=
  ∀ (a b : Word) (s : State),
    exec (.mul a b) s = .next (answered s (BitVec.ofInt 64 (clampRange (a.toInt * b.toInt / 2 ^ 32)))
      (overflows (a.toInt * b.toInt / 2 ^ 32)) 0)

/-- DIV by a non-zero divisor answers the clamped signed quotient whose magnitude is the scaled quotient of the
magnitudes rounded to nearest, halves up; DIV by zero is DIVZERO for every dividend (R94). -/
def Obligations.DivRoundsMagnitudeToNearest : Prop :=
  ∀ (a b : Word) (s : State),
    (b = 0 → exec (.div a b) s = .next (answered s 0 false 1)) ∧
    (b ≠ 0 → ∃ m t : Int, 0 ≤ m ∧
      (2 * m - 1) * |b.toInt| ≤ 2 * |a.toInt| * 2 ^ 32 ∧ 2 * |a.toInt| * 2 ^ 32 < (2 * m + 1) * |b.toInt| ∧
      t = (if (a.toInt < 0 ↔ b.toInt < 0) then m else -m) ∧
      exec (.div a b) s = .next (answered s (BitVec.ofInt 64 (clampRange t)) (overflows t) 0))

/-- MOD by a non-zero divisor answers the truncating remainder, the guarded pair included; MOD by zero is DIVZERO
(R95). -/
def Obligations.ModIsTruncatingRemainder : Prop :=
  ∀ (a b : Word) (s : State),
    (b = 0 → exec (.mod a b) s = .next (answered s 0 false 1)) ∧
    (b ≠ 0 → exec (.mod a b) s = .next (answered s (BitVec.ofInt 64 (a.toInt.tmod b.toInt)) false 0) ∧
      ((response (.mod a b)).res.toInt < 0 → a.toInt < 0) ∧ (0 < (response (.mod a b)).res.toInt → 0 < a.toInt) ∧
      |(response (.mod a b)).res.toInt| < |b.toInt|)

/-- NEG, INC and DEC saturate: `MinValue` negates to `MaxValue`, and INC and DEC add and subtract `one` as ADD and
SUB do (R97, R98, R99). -/
def Obligations.NegIncDecSaturate : Prop :=
  ∀ (a b : Word) (s : State),
    exec (.neg a b) s = .next (answered s (if a = BitVec.intMin 64 then BitVec.intMax 64 else -a)
      (decide (a = BitVec.intMin 64)) 0) ∧
    exec (.inc a b) s = exec (.add a 0x100000000) s ∧
    exec (.inc a b) s = .next (answered s (BitVec.ofInt 64 (clampRange (a.toInt + 2 ^ 32)))
      (overflows (a.toInt + 2 ^ 32)) 0) ∧
    exec (.dec a b) s = exec (.sub a 0x100000000) s ∧
    exec (.dec a b) s = .next (answered s (BitVec.ofInt 64 (clampRange (a.toInt - 2 ^ 32)))
      (overflows (a.toInt - 2 ^ 32)) 0)

/-! ### Fast arithmetic -/

/-- FADD, FSUB and FMUL keep 64 bits of the exact sum, difference and 128-bit product shifted by 32, and never set
the flag (R100, R101, R102). -/
def Obligations.FastArithmeticWraps : Prop :=
  ∀ (a b : Word) (s : State),
    exec (.fadd a b) s = .next (answered s (a + b) false 0) ∧
    exec (.fsub a b) s = .next (answered s (a - b) false 0) ∧
    exec (.fmul a b) s =
      .next (answered s ((a.signExtend 128 * b.signExtend 128).extractLsb' 32 64) false 0)

/-- FMOD is DIVZERO for a zero divisor, REMOVF for `MinValue` by -1 raw, and MOD's remainder otherwise (R103). -/
def Obligations.FmodIsUnguarded : Prop :=
  ∀ (a b : Word) (s : State),
    (b = 0 → exec (.fmod a b) s = .next (answered s 0 false 1)) ∧
    (a = BitVec.intMin 64 ∧ b = -1 → exec (.fmod a b) s = .next (answered s 0 false 4)) ∧
    (b ≠ 0 → ¬(a = BitVec.intMin 64 ∧ b = -1) →
      exec (.fmod a b) s = .next (answered s (BitVec.ofInt 64 (a.toInt.tmod b.toInt)) false 0) ∧
      exec (.fmod a b) s = exec (.mod a b) s)

/-! ### Rounding and classification -/

/-- FLOOR clears the fraction; CEIL adds `one` to the floor when a fraction bit is set, saturating; TRUNC rounds
toward zero and never saturates (R121, R122, R124). -/
def Obligations.FloorCeilTrunc : Prop :=
  ∀ (a b : Word) (s : State),
    exec (.floor a b) s = .next (answered s (a &&& 0xFFFFFFFF00000000) false 0) ∧
    exec (.ceil a b) s = .next (answered s
      (if a &&& 0xFFFFFFFF = 0 then a
       else if a.extractLsb' 32 32 = 0x7FFFFFFF then BitVec.intMax 64
       else (a &&& 0xFFFFFFFF00000000) + 0x100000000)
      (decide (a.extractLsb' 32 32 = 0x7FFFFFFF ∧ a &&& 0xFFFFFFFF ≠ 0)) 0) ∧
    exec (.trunc a b) s = .next (answered s (BitVec.ofInt 64 (a.toInt.tdiv (2 ^ 32) * 2 ^ 32)) false 0)

/-- ROUND answers the multiple of `one` nearest to `a`, a tie going to the even integer; from 2^31 - 0.5 up it
saturates with the flag (R123). -/
def Obligations.RoundHalfToEven : Prop :=
  ∀ (a b : Word) (s : State),
    (0x7FFFFFFF80000000 ≤ a.toInt →
      exec (.round a b) s = .next (answered s (BitVec.intMax 64) true 0)) ∧
    (a.toInt < 0x7FFFFFFF80000000 → ∃ n : Int,
      |2 * (n * 2 ^ 32 - a.toInt)| ≤ 2 ^ 32 ∧
      (|2 * (n * 2 ^ 32 - a.toInt)| = 2 ^ 32 → n % 2 = 0) ∧
      exec (.round a b) s = .next (answered s (BitVec.ofInt 64 (n * 2 ^ 32)) false 0))

/-- SIGN is a plain integer; ABS saturates at `MinValue` with the flag; FABS, by its sign mask, is the wrapped
magnitude (R125, R126, R127). -/
def Obligations.SignAbsFabs : Prop :=
  ∀ (a b : Word) (s : State),
    exec (.sign a b) s = .next (answered s (BitVec.ofInt 64 a.toInt.sign) false 0) ∧
    exec (.abs a b) s = .next (answered s (BitVec.ofInt 64 (clampRange |a.toInt|))
      (decide (a = BitVec.intMin 64)) 0) ∧
    exec (.fabs a b) s = .next (answered s (BitVec.ofInt 64 |a.toInt|) false 0)

/-- The laws of R128, the spec's own inference from R121 to R127: FLOOR is below TRUNC and, with CEIL unsaturated,
FLOOR ≤ ROUND ≤ CEIL; CEIL and FLOOR then differ by `one` where there is a fraction, else by 0; the four roundings are
idempotent for every operand and leave integral values unchanged; TRUNC commutes with NEG away from `MinValue`, and
ROUND does below its saturation; FLOOR is FROMINT of TOINT; SIGN compares with zero; ABS is the operand or its NEG. -/
def Obligations.RoundingLaws : Prop :=
  (∀ a b : Word, (response (.floor a b)).res.toInt ≤ (response (.trunc a b)).res.toInt) ∧
  (∀ a b : Word, (response (.ceil a b)).ovf = false →
    (response (.floor a b)).res.toInt ≤ (response (.round a b)).res.toInt ∧
    (response (.round a b)).res.toInt ≤ (response (.ceil a b)).res.toInt ∧
    (response (.ceil a b)).res.toInt - (response (.floor a b)).res.toInt =
      if a &&& 0xFFFFFFFF = 0 then 0 else 2 ^ 32) ∧
  (∀ a b b' : Word,
    (response (.floor (response (.floor a b)).res b')).res = (response (.floor a b)).res ∧
    (response (.ceil (response (.ceil a b)).res b')).res = (response (.ceil a b)).res ∧
    (response (.round (response (.round a b)).res b')).res = (response (.round a b)).res ∧
    (response (.trunc (response (.trunc a b)).res b')).res = (response (.trunc a b)).res) ∧
  (∀ a b : Word, a &&& 0xFFFFFFFF = 0 →
    (response (.floor a b)).res = a ∧ (response (.ceil a b)).res = a ∧
    (response (.round a b)).res = a ∧ (response (.trunc a b)).res = a) ∧
  (∀ a b b' : Word, a ≠ BitVec.intMin 64 →
    (response (.trunc (response (.neg a b)).res b')).res = (response (.neg (response (.trunc a b)).res b')).res) ∧
  (∀ a b b' : Word, |a.toInt| < 0x7FFFFFFF80000000 →
    (response (.round (response (.neg a b)).res b')).res = (response (.neg (response (.round a b)).res b')).res) ∧
  (∀ a b b' : Word, (response (.floor a b)).res = (response (.fromint (response (.toint a b)).res b')).res) ∧
  (∀ a b : Word, response (.sign a b) = response (.cmp a 0)) ∧
  (∀ a b b' : Word, (0 ≤ a.toInt → (response (.abs a b)).res = a) ∧
    (a.toInt < 0 → response (.abs a b) = response (.neg a b')))

/-! ### Square root -/

/-- SQRT of a non-negative value is the integer nearest to the root of `a * 2^32`; of a negative one it is DOMAIN
(R136). -/
def Obligations.SqrtRoundsToNearest : Prop :=
  ∀ (a b : Word) (s : State),
    (a.toInt < 0 → exec (.sqrt a b) s = .next (answered s 0 false 2)) ∧
    (0 ≤ a.toInt → ∃ r : Nat,
      4 * (a.toInt * 2 ^ 32) < (2 * (r : Int) + 1) ^ 2 ∧
      (r ≠ 0 → (2 * (r : Int) - 1) ^ 2 < 4 * (a.toInt * 2 ^ 32)) ∧
      exec (.sqrt a b) s = .next (answered s (BitVec.ofNat 64 r) false 0))

/-- SQRT is bounded by `0x0000B504F333F9DE`, so that MUL of a root by itself never saturates; it is monotone; and it
is exact on the MUL of `v ≥ 0` by itself where `v * v` is a multiple of 2^32 and that MUL does not saturate. All but
the last premise is the spec's own inference R137. The premise that MUL does not saturate is the model's correction
of R137's sentence, which omits it and fails without it, for instance for 65536.0 (log entry 17). -/
def Obligations.SqrtRangeAndMonotone : Prop :=
  (∀ a b b' : Word, 0 ≤ a.toInt → 0 ≤ (response (.sqrt a b)).res.toInt ∧
    (response (.sqrt a b)).res.toInt ≤ 0x0000B504F333F9DE ∧
    (response (.mul (response (.sqrt a b)).res (response (.sqrt a b')).res)).ovf = false) ∧
  (∀ a a' b : Word, 0 ≤ a.toInt → a.toInt ≤ a'.toInt →
    (response (.sqrt a b)).res.toInt ≤ (response (.sqrt a' b)).res.toInt) ∧
  (∀ v b : Word, 0 ≤ v.toInt → v.toInt * v.toInt % 2 ^ 32 = 0 → (response (.mul v v)).ovf = false →
    (response (.sqrt (response (.mul v v)).res b)).res = v)

/-! ### The procedures behind the contracts -/

/-- The sign-bit overflow tests compute ADD's and SUB's responses (the spec's own inference R104). -/
def Obligations.SignBitTestComputesAddSub : Prop :=
  ∀ a b : Word,
    (response (.add a b)).res = addBySignBits a b ∧ (response (.add a b)).ovf = addOverflowBit a b ∧
    (response (.sub a b)).res = subBySignBits a b ∧ (response (.sub a b)).ovf = subOverflowBit a b

/-- The four partial products sum to the floored product; wrapped they are FMUL, clamped they are MUL (the spec's own
inference R105). -/
def Obligations.PartialProductsComputeMul : Prop :=
  ∀ a b : Word,
    partialProducts a b = a.toInt * b.toInt / 2 ^ 32 ∧
    (response (.fmul a b)).res = BitVec.ofInt 64 (partialProducts a b) ∧
    (response (.mul a b)).res = BitVec.ofInt 64 (clampRange (partialProducts a b))

/-- Restoring long division computes DIV's result for every dividend and every non-zero divisor (the spec's own
inference R106). -/
def Obligations.RestoringDivisionComputesDiv : Prop :=
  ∀ a b : Word, b ≠ 0 → (response (.div a b)).res = BitVec.ofInt 64 (divByRestoring a.toInt b.toInt)

/-- The digit-by-digit root of R138 against SQRT. Where the remainder of the first pass is below 2^32 it is SQRT's
result. Above, the correction branch is taken, and the procedure answers the root nearest to `a * 2^32 - 2^30`, which
is SQRT's result or one less; both happen. R138, the spec's own inference from R136, claims SQRT's result for every
operand: that claim fails, and this is the model's correction of it (log entries 13 and 19). -/
def Obligations.DigitRootIsSqrtOrOneLess : Prop :=
  (∀ a b : Word, 0 ≤ a.toInt → a.toNat < a.toNat.sqrt ^ 2 + 2 ^ 32 →
    (response (.sqrt a b)).res = BitVec.ofNat 64 (sqrtByDigits a.toNat)) ∧
  (∀ a b : Word, 0 ≤ a.toInt → a.toNat.sqrt ^ 2 + 2 ^ 32 ≤ a.toNat →
    (2 * (sqrtByDigits a.toNat : Int) - 1) ^ 2 < 4 * (a.toInt * 2 ^ 32 - 2 ^ 30) ∧
    4 * (a.toInt * 2 ^ 32 - 2 ^ 30) < (2 * (sqrtByDigits a.toNat : Int) + 1) ^ 2 ∧
    ((response (.sqrt a b)).res = BitVec.ofNat 64 (sqrtByDigits a.toNat) ∨
      (response (.sqrt a b)).res = BitVec.ofNat 64 (sqrtByDigits a.toNat + 1))) ∧
  (∀ b : Word, sqrtByDigits 0x640000013FFF6001 = 0xA0000000FFFF ∧
    (response (.sqrt 0x640000013FFF6001 b)).res = 0xA00000010000) ∧
  (∀ b : Word, (response (.sqrt 0x7FFFFFFFFFFFFFFF b)).res =
    BitVec.ofNat 64 (sqrtByDigits 0x7FFFFFFFFFFFFFFF))

/-! ### Trigonometry -/

/-- The sine reducer's ranges, items 1 to 4 of the spec's own inference R147: the chain of remainders keeps the sign
and is below a turn, the turned angle is in `[0, PiTimes2]`, and the reduced angle is in `[0, PiOver2)`. -/
def Obligations.SineReducerRanges : Prop :=
  ∀ a : Word,
    (|remainderChain a.toInt| < 0x6487ED511 ∧ 0 ≤ remainderChain a.toInt * a.toInt) ∧
    (0 ≤ a.toInt → 0 ≤ turnAngle a.toInt ∧ turnAngle a.toInt < 0x6487ED511) ∧
    (a.toInt < 0 → 0 < turnAngle a.toInt ∧ turnAngle a.toInt ≤ 0x6487ED511) ∧
    (0 ≤ foldPi 2 (turnAngle a.toInt) ∧ foldPi 2 (turnAngle a.toInt) < 0x3243F6A88) ∧
    (0 ≤ (reduceSin a.toInt).q ∧ (reduceSin a.toInt).q < 0x1921FB544)

/-- Every index the interpolator forms from `0 ≤ q ≤ PiOver2`, forwards or mirrored, is an index of the table
(the spec's own inference R153). -/
def Obligations.InterpolatorIndicesInRange : Prop :=
  ∀ (q : Int) (mirror : Bool), 0 ≤ q → q ≤ 0x1921FB544 →
    0 ≤ firstRead q mirror ∧ firstRead q mirror ≤ 205886 ∧ 0 ≤ secondRead q mirror ∧ secondRead q mirror ≤ 205886

/-- No operand of SIN, COS, TAN, FSIN or FCOS forms a table index outside `0 .. 205886`: the ROM's clamp is never
seen (R50, R160, and the spec's own inferences R153 and R163). -/
def Obligations.TableReadsAlwaysInRange : Prop :=
  ∀ a : Word, ∀ x ∈ [a.toInt, cosAngle a.toInt],
    (0 ≤ firstRead (reduceSin x).q (reduceSin x).fh ∧ firstRead (reduceSin x).q (reduceSin x).fh ≤ 205886) ∧
    (0 ≤ secondRead (reduceSin x).q (reduceSin x).fh ∧ secondRead (reduceSin x).q (reduceSin x).fh ≤ 205886) ∧
    (0 ≤ fastRead (reduceSin x) ∧ fastRead (reduceSin x) ≤ 205886) ∧
    (0 ≤ firstRead (reduceTan x).c false ∧ firstRead (reduceTan x).c false ≤ 205886) ∧
    (0 ≤ secondRead (reduceTan x).c false ∧ secondRead (reduceTan x).c false ≤ 205886)

/-- `interp` of R149 and R150, every operator the command of its name, with indices not clamped. -/
def interpolatedByCommands (t : Lut) (q : Word) (mirror : Bool) : Word :=
  let position := (response (.fmul q 0x0001FFFF19349798)).res
  let r := (response (.round position 0)).res
  let e := (response (.fsub position r)).res
  let ri := (response (.toint r 0)).res.toInt
  let sg := (response (.sign e 0)).res.toInt
  let near := t (if mirror then 205886 - ri else ri).toNat
  let sec := t (if mirror then 205886 - ri - sg else ri + sg).toNat
  let delta := (response (.fmul e (response (.fabs (response (.fsub near sec)).res 0)).res)).res
  if mirror then near - delta else near + delta

/-- SIN's sequence: 29 truncating remainders by halved moduli, the turn, the two folds as remainders by `Pi` and
`PiOver2` (R146), the interpolated read, the flip (R155). -/
def sineByCommands (t : Lut) (x : Int) : Word :=
  let chain := (List.range 29).foldl (fun (c : Int) i => c.tmod (0x6487ED5110B4611A / 2 ^ i)) x
  let turn := if x < 0 then chain + 0x6487ED511 else chain
  let half := turn % 0x3243F6A88
  let v := interpolatedByCommands t (BitVec.ofInt 64 (half % 0x1921FB544)) (decide (0x1921FB544 ≤ half))
  if 0x3243F6A88 ≤ turn then -v else v

/-- FSIN's sequence: the same reduction, then one read at `q >> 15`, clamped to the last index (R160). -/
def fastSineByCommands (t : Lut) (x : Int) : Word :=
  let chain := (List.range 29).foldl (fun (c : Int) i => c.tmod (0x6487ED5110B4611A / 2 ^ i)) x
  let turn := if x < 0 then chain + 0x6487ED511 else chain
  let half := turn % 0x3243F6A88
  let ri := min (half % 0x1921FB544 / 2 ^ 15) 205886
  let v := t (if 0x1921FB544 ≤ half then 205886 - ri else ri).toNat
  if 0x3243F6A88 ≤ turn then -v else v

/-- SIN and FSIN complete for every operand, without error or flag, with the values their sequences take from the
ROM's sine table (R155, R160). -/
def Obligations.SineIsItsSequence : Prop :=
  ∀ (a b : Word) (s : State),
    exec (.sin a b) s = .next (answered s (sineByCommands Config.sinLut a.toInt) false 0) ∧
    exec (.fsin a b) s = .next (answered s (fastSineByCommands Config.sinLut a.toInt) false 0)

/-- TAN is the sequence of R162 and R164 over the ROM's tangent table. -/
def Obligations.TangentIsItsSequence : Prop :=
  ∀ (a b : Word) (s : State),
    let c := |a.toInt.tmod 0x3243F6A88|
    let beyond := decide (0x1921FB544 < c)
    let flip := decide (a.toInt.tmod 0x3243F6A88 < 0) != beyond
    let v := interpolatedByCommands Config.tanLut (BitVec.ofInt 64 (if beyond then 0x3243F6A88 - c else c)) false
    exec (.tan a b) s = .next (answered s (if flip then -v else v) false 0)

/-- COS and FCOS complete for every operand, without error or flag, with the value of SIN's and FSIN's sequence at
the adjusted angle, which never leaves the 64-bit range (R157, R161). -/
def Obligations.CosineIsShiftedSine : Prop :=
  ∀ (a b : Word) (s : State),
    let t := if 0 < a.toInt then a.toInt - 0x3243F6A88 - 0x1921FB544 else a.toInt + 0x1921FB544
    t < 2 ^ 63 ∧ -(2 ^ 63) ≤ t ∧
    exec (.cos a b) s = .next (answered s (sineByCommands Config.sinLut t) false 0) ∧
    exec (.fcos a b) s = .next (answered s (fastSineByCommands Config.sinLut t) false 0)

/-- With any table whose entries never decrease and lie in `[0, one]`, the sine and the fast sine of every operand
lie in `[-one, one]` (R156 says it of the reference table). -/
def Obligations.SineStaysWithinOne : Prop :=
  ∀ (t : Lut) (a : Word), LutMonotone t →
    (∀ i, InTable i → 0 ≤ (t i).toInt ∧ (t i).toInt ≤ 0x100000000) →
    |sinValue t a.toInt| ≤ 0x100000000 ∧ |fastSinValue t a.toInt| ≤ 0x100000000

/-- TAN is odd away from `MinValue` for every table that begins with 0 (the spec's own inference R165). -/
def Obligations.TangentIsOdd : Prop :=
  ∀ (t : Lut) (a : Word), (t 0).toInt = 0 → a ≠ BitVec.intMin 64 →
    tanValue t (-a.toInt) = wrap (-tanValue t a.toInt)

/-! ### Series -/

/-- The four quantities of R177's loop. -/
structure SeriesRegisters where
  result : Word
  term : Word
  dividend : Word
  divisor : Word

/-- One pass of R177's loop, every operator the command of its name. -/
def eulerPass (zSq2 zSq12 : Word) (r : SeriesRegisters) : SeriesRegisters :=
  let term := (response (.mul r.term (response (.div r.dividend r.divisor)).res)).res
  { result := (response (.add r.result term)).res, term := term,
    dividend := (response (.add r.dividend zSq2)).res, divisor := (response (.add r.divisor zSq12)).res }

/-- R177's series at `z`, all 28 passes made: a pass after the term has reached zero adds nothing. -/
def eulerSeries (z : Word) : Word :=
  let zSq := (response (.mul z z)).res
  let zSq2 := (response (.mul zSq 0x200000000)).res
  let zp1 := (response (.add zSq 0x100000000)).res
  let zSq12 := (response (.mul zp1 0x200000000)).res
  let start : SeriesRegisters :=
    { result := 0x100000000, term := 0x100000000, dividend := zSq2, divisor := (response (.mul zp1 0x300000000)).res }
  let sum := ((List.range 28).foldl (fun r _ => eulerPass zSq2 zSq12 r) start).result
  (response (.div (response (.mul sum z)).res zp1)).res

/-- ATAN is the sequence of R177: odd symmetry, reciprocal symmetry above `one`, and the series, each operator the
command of its name. -/
def Obligations.AtanIsItsSequence : Prop :=
  ∀ (a b : Word) (s : State),
    let z := if a.toInt < 0 then (response (.neg a 0)).res else a
    let r := if 0x100000000 < z.toInt then
        (response (.sub 0x1921FB544 (eulerSeries (response (.div 0x100000000 z)).res))).res
      else eulerSeries z
    exec (.atan a b) s = .next (answered s
      (if a = 0 then 0 else if a.toInt < 0 then (response (.neg r 0)).res else r) false 0)

/-- ATAN completes for every operand without error or flag, its result is in `[-PiOver2, PiOver2]`, and it is odd
away from `MinValue` (R175, R177, and the spec's own inference R180). -/
def Obligations.AtanCompletesBoundedOdd : Prop :=
  (∀ (a b : Word) (s : State), ∃ v : Int, |v| ≤ 0x1921FB544 ∧
    exec (.atan a b) s = .next (answered s (BitVec.ofInt 64 v) false 0)) ∧
  (∀ a b b' : Word, a ≠ BitVec.intMin 64 →
    (response (.atan (-a) b)).res = -(response (.atan a b')).res)

/-- ATAN2 completes for every operand pair without error or flag, with a result in `[-Pi, Pi]` (R175; the range is
the spec's own inference R184). -/
def Obligations.Atan2CompletesWithinPi : Prop :=
  ∀ (a b : Word) (s : State), ∃ v : Int, |v| ≤ 0x3243F6A88 ∧
    exec (.atan2 a b) s = .next (answered s (BitVec.ofInt 64 v) false 0)

/-- ATAN2 is the sequence of R183, exact on the axis `x = 0` and each operator the command of its name with its
response's result (R183). -/
def Obligations.Atan2IsItsSequence : Prop :=
  ∀ (a b : Word) (s : State),
    let z := (response (.div a b)).res
    let den := (response (.add 0x100000000 (response (.mul (response (.mul 0x47AE147A z)).res z)).res)).res
    let at1 := (response (.div z den)).res
    let at2 := (response (.sub 0x1921FB544
      (response (.div z (response (.add (response (.mul z z)).res 0x47AE147A)).res)).res)).res
    exec (.atan2 a b) s = .next (answered s
      (if b = 0 then (if 0 < a.toInt then 0x1921FB544 else if a = 0 then 0 else 0xFFFFFFFE6DE04ABC)
       else if den = BitVec.intMax 64 then (if a.toInt < 0 then 0xFFFFFFFE6DE04ABC else 0x1921FB544)
       else if (response (.abs z 0)).res.toInt < 0x100000000 then
         (if b.toInt < 0 then
           (if a.toInt < 0 then (response (.sub at1 0x3243F6A88)).res else (response (.add at1 0x3243F6A88)).res)
          else at1)
       else if a.toInt < 0 then (response (.sub at2 0x3243F6A88)).res else at2) false 0)

/-- ACOS outside `[-1, 1]` is DOMAIN, at 0 is `PiOver2`, and otherwise is the arctangent of `sqrt(1 - x²) / x`, plus
`Pi` when `x` is negative, each operator the command of its name (R187). -/
def Obligations.AcosIsItsComposition : Prop :=
  ∀ (a b : Word) (s : State),
    let root := (response (.sqrt (response (.sub 0x100000000 (response (.mul a a)).res)).res 0)).res
    let r := (response (.atan (response (.div root a)).res 0)).res
    (a.toInt < -0x100000000 ∨ 0x100000000 < a.toInt → exec (.acos a b) s = .next (answered s 0 false 2)) ∧
    (-0x100000000 ≤ a.toInt → a.toInt ≤ 0x100000000 →
      exec (.acos a b) s = .next (answered s
        (if a = 0 then 0x1921FB544 else if a.toInt < 0 then (response (.add r 0x3243F6A88)).res else r) false 0))

/-- `z` and the fraction bits found so far, in R190's squaring steps. -/
def squaringPass (v : Nat × Nat) : Nat × Nat :=
  if 2 ^ 33 ≤ v.1 * v.1 / 2 ^ 32 then (v.1 * v.1 / 2 ^ 32 / 2, 2 * v.2 + 1) else (v.1 * v.1 / 2 ^ 32, 2 * v.2)

/-- LOG2 of zero or a negative value is DOMAIN (R190). Of a value whose highest set bit is bit `p`, the integer part
is `p - 32` and the value is brought into `[one, 2 one)` by one shift, which is the spec's own inference R191 from the
loops of R190; 32 squarings then give the fraction bits, the most significant first (R190). -/
def Obligations.Log2IsItsSequence : Prop :=
  ∀ (a b : Word) (s : State),
    (a.toInt ≤ 0 → exec (.log2 a b) s = .next (answered s 0 false 2)) ∧
    (0 < a.toInt → ∃ p : Nat, p ≤ 62 ∧ 2 ^ p ≤ a.toNat ∧ a.toNat < 2 ^ (p + 1) ∧
      (let z := if p ≤ 32 then a.toNat * 2 ^ (32 - p) else a.toNat / 2 ^ (p - 32)
       let bits := ((List.range 32).foldl (fun v _ => squaringPass v) (z, 0)).2
       exec (.log2 a b) s = .next (answered s (BitVec.ofInt 64 (((p : Int) - 32) * 2 ^ 32 + bits)) false 0)))

/-- LOG2 of a positive value is in `[Log2Min, Log2Max)`, never decreasing and exact on powers of two (the spec's own
inference R191). -/
def Obligations.Log2RangeMonotoneExact : Prop :=
  (∀ a b : Word, 0 < a.toInt →
    -0x2000000000 ≤ (response (.log2 a b)).res.toInt ∧ (response (.log2 a b)).res.toInt < 0x1F00000000) ∧
  (∀ a a' b b' : Word, 0 < a.toInt → a.toInt ≤ a'.toInt →
    (response (.log2 a b)).res.toInt ≤ (response (.log2 a' b')).res.toInt) ∧
  (∀ (p : Nat) (b : Word), p ≤ 62 →
    (response (.log2 (BitVec.ofNat 64 (2 ^ p)) b)).res = BitVec.ofInt 64 (((p : Int) - 32) * 2 ^ 32))

/-- LN is the fast product of LOG2 and `Ln2`; of zero or a negative value it is DOMAIN (R193). -/
def Obligations.LnIsLog2TimesLn2 : Prop :=
  ∀ (a b : Word) (s : State),
    (a.toInt ≤ 0 → exec (.ln a b) s = .next (answered s 0 false 2)) ∧
    (0 < a.toInt → exec (.ln a b) s =
      .next (answered s (response (.fmul (response (.log2 a 0)).res 0xB17217F7)).res false 0))

/-- The terms of R195's series at the fraction `f`, every operator the command of its name. -/
def pow2Term (f : Word) : Nat → Word
  | 0 => 0x100000000
  | i + 1 => (response (.div (response (.fmul (response (.fmul f (pow2Term f i))).res 0xB17217F7)).res
      (BitVec.ofNat 64 ((i + 1) * 2 ^ 32)))).res

/-- The sum R195's loop has built after `n` passes. -/
def pow2Sum (f : Word) (n : Nat) : Word := (List.range n).foldl (fun r i => r + pow2Term f (i + 1)) 0x100000000

/-- The fraction of an operand's magnitude, `f` of R195. -/
def pow2Fraction (a : Word) : Word := BitVec.ofNat 64 (a.toInt.natAbs % 2 ^ 32)

/-- POW2 is the sequence of R195: the range tests, then the series summed until its term is zero, shifted by the
integer part, the reciprocal for a negative operand (R195; the shortcut for a magnitude of `one` gives what the
series gives). -/
def Obligations.Pow2IsItsSequence : Prop :=
  ∀ (a b : Word) (s : State), ∃ n : Nat, pow2Term (pow2Fraction a) n = 0 ∧
    (let scaled := pow2Sum (pow2Fraction a) n <<< (a.toInt.natAbs / 2 ^ 32)
     exec (.pow2 a b) s = .next (answered s
      (if 0x1F00000000 ≤ a.toInt then BitVec.intMax 64
       else if a.toInt ≤ -0x2000000000 then 0
       else if a.toInt ≤ -0x1F00000000 then (response (.div 0x100000000 (BitVec.intMax 64))).res
       else if a.toInt < 0 then (response (.div 0x100000000 scaled)).res
       else scaled) false 0))

/-- POW2's term is zero by pass 12 and the sum is in `[one, 0x1FFFFFFFB]` whatever the fraction (the spec's own
inference R196, which gives 12 as observed). -/
def Obligations.Pow2SeriesTerminates : Prop :=
  ∀ f : Word, f.toNat < 2 ^ 32 →
    pow2Term f 12 = 0 ∧ 0x100000000 ≤ (pow2Sum f 12).toInt ∧ (pow2Sum f 12).toInt ≤ 0x1FFFFFFFB

/-- POW2 completes for every operand without error or flag, in `[0, MaxValue]` (R195, R197), and at 31 and above, at
-32 and below, and from there to -31 answers `MaxValue`, 0 and 2 raw; it is exact for integral operands from -31 to
30 (the spec's own inference R197). -/
def Obligations.Pow2RangeAndExactness : Prop :=
  (∀ (a b : Word) (s : State), ∃ v : Int, 0 ≤ v ∧ v ≤ 0x7FFFFFFFFFFFFFFF ∧
    exec (.pow2 a b) s = .next (answered s (BitVec.ofInt 64 v) false 0)) ∧
  (∀ a b : Word, 0x1F00000000 ≤ a.toInt → (response (.pow2 a b)).res = BitVec.intMax 64) ∧
  (∀ a b : Word, a.toInt ≤ -0x2000000000 → (response (.pow2 a b)).res = 0) ∧
  (∀ a b : Word, -0x2000000000 < a.toInt → a.toInt ≤ -0x1F00000000 → (response (.pow2 a b)).res = 2) ∧
  (∀ (k : Int) (b : Word), -31 ≤ k → k ≤ 30 →
    (response (.pow2 (BitVec.ofInt 64 (k * 2 ^ 32)) b)).res = BitVec.ofNat 64 (2 ^ (k + 32).toNat))

/-- POW's tests in the rule's order: base `one` and exponent 0 give `one`, a zero base gives 0 or DIVZERO, a negative
base is DOMAIN, and otherwise it is POW2 of the saturating product of the exponent and LOG2 (R200). -/
def Obligations.PowIsItsComposition : Prop :=
  ∀ (a b : Word) (s : State), exec (.pow a b) s =
    if a = 0x100000000 ∨ b = 0 then .next (answered s 0x100000000 false 0)
    else if a = 0 then (if b.toInt < 0 then .next (answered s 0 false 1) else .next (answered s 0 false 0))
    else if a.toInt < 0 then .next (answered s 0 false 2)
    else .next (answered s (response (.pow2 (response (.mul b (response (.log2 a 0)).res)).res 0)).res false 0)
end

