-- ==== Sys2Proof/Laws/State.lean ====
section
/-! SUPPORT. One lemma per field per update of the state. -/

namespace Sys2Proof.Machine

/-! ### respond -/

@[simp] theorem respond_opr (r : Response) (s : State) : (respond r s).opr = s.opr := rfl
@[simp] theorem respond_a (r : Response) (s : State) : (respond r s).a = s.a := rfl
@[simp] theorem respond_b (r : Response) (s : State) : (respond r s).b = s.b := rfl
@[simp] theorem respond_res (r : Response) (s : State) : (respond r s).res = r.res := rfl
@[simp] theorem respond_ovf (r : Response) (s : State) : (respond r s).ovf = r.ovf := rfl
@[simp] theorem respond_err (r : Response) (s : State) : (respond r s).err = r.err := rfl
@[simp] theorem respond_rvalid (r : Response) (s : State) : (respond r s).rvalid = true := rfl
@[simp] theorem respond_busy (r : Response) (s : State) : (respond r s).busy = false := rfl
@[simp] theorem respond_rspValid (r : Response) (s : State) : (respond r s).rspValid = true := rfl
@[simp] theorem respond_wait (r : Response) (s : State) : (respond r s).wait = 0 := rfl
@[simp] theorem respond_host (r : Response) (s : State) : (respond r s).host = s.host := rfl

/-! ### raiseErr -/

@[simp] theorem raiseErr_opr (e : Err) (s : State) : (raiseErr e s).opr = s.opr := rfl
@[simp] theorem raiseErr_a (e : Err) (s : State) : (raiseErr e s).a = s.a := rfl
@[simp] theorem raiseErr_b (e : Err) (s : State) : (raiseErr e s).b = s.b := rfl
@[simp] theorem raiseErr_res (e : Err) (s : State) : (raiseErr e s).res = 0 := rfl
@[simp] theorem raiseErr_ovf (e : Err) (s : State) : (raiseErr e s).ovf = false := rfl
@[simp] theorem raiseErr_err (e : Err) (s : State) : (raiseErr e s).err = errCode e := rfl
@[simp] theorem raiseErr_rvalid (e : Err) (s : State) : (raiseErr e s).rvalid = true := rfl
@[simp] theorem raiseErr_busy (e : Err) (s : State) : (raiseErr e s).busy = false := rfl
@[simp] theorem raiseErr_rspValid (e : Err) (s : State) : (raiseErr e s).rspValid = true := rfl
@[simp] theorem raiseErr_wait (e : Err) (s : State) : (raiseErr e s).wait = 0 := rfl
@[simp] theorem raiseErr_host (e : Err) (s : State) : (raiseErr e s).host = s.host := rfl

/-! ### accept -/

@[simp] theorem accept_opr (p : Pins) (s : State) : (accept p s).opr = p.cmdOp := rfl
@[simp] theorem accept_a (p : Pins) (s : State) : (accept p s).a = p.cmdA := rfl
@[simp] theorem accept_b (p : Pins) (s : State) : (accept p s).b = p.cmdB := rfl
@[simp] theorem accept_res (p : Pins) (s : State) : (accept p s).res = s.res := rfl
@[simp] theorem accept_ovf (p : Pins) (s : State) : (accept p s).ovf = s.ovf := rfl
@[simp] theorem accept_err (p : Pins) (s : State) : (accept p s).err = s.err := rfl
@[simp] theorem accept_rvalid (p : Pins) (s : State) : (accept p s).rvalid = s.rvalid := rfl
@[simp] theorem accept_busy (p : Pins) (s : State) : (accept p s).busy = true := rfl
@[simp] theorem accept_rspValid (p : Pins) (s : State) : (accept p s).rspValid = false := rfl
@[simp] theorem accept_wait (p : Pins) (s : State) : (accept p s).wait = latency p.cmdOp p.cmdA p.cmdB := rfl
@[simp] theorem accept_host (p : Pins) (s : State) : (accept p s).host = s.host := rfl

/-! ### resetRegisters -/

@[simp] theorem resetRegisters_opr (s : State) : (resetRegisters s).opr = 0 := rfl
@[simp] theorem resetRegisters_a (s : State) : (resetRegisters s).a = 0 := rfl
@[simp] theorem resetRegisters_b (s : State) : (resetRegisters s).b = 0 := rfl
@[simp] theorem resetRegisters_res (s : State) : (resetRegisters s).res = 0 := rfl
@[simp] theorem resetRegisters_ovf (s : State) : (resetRegisters s).ovf = false := rfl
@[simp] theorem resetRegisters_err (s : State) : (resetRegisters s).err = 0 := rfl
@[simp] theorem resetRegisters_rvalid (s : State) : (resetRegisters s).rvalid = false := rfl
@[simp] theorem resetRegisters_busy (s : State) : (resetRegisters s).busy = false := rfl
@[simp] theorem resetRegisters_rspValid (s : State) : (resetRegisters s).rspValid = false := rfl
@[simp] theorem resetRegisters_wait (s : State) : (resetRegisters s).wait = 0 := rfl
@[simp] theorem resetRegisters_host (s : State) : (resetRegisters s).host = s.host := rfl

/-! ### idle -/

@[simp] theorem idle_opr (s : State) : (idle s).opr = s.opr := rfl
@[simp] theorem idle_a (s : State) : (idle s).a = s.a := rfl
@[simp] theorem idle_b (s : State) : (idle s).b = s.b := rfl
@[simp] theorem idle_res (s : State) : (idle s).res = s.res := rfl
@[simp] theorem idle_ovf (s : State) : (idle s).ovf = s.ovf := rfl
@[simp] theorem idle_err (s : State) : (idle s).err = s.err := rfl
@[simp] theorem idle_rvalid (s : State) : (idle s).rvalid = s.rvalid := rfl
@[simp] theorem idle_busy (s : State) : (idle s).busy = s.busy := rfl
@[simp] theorem idle_rspValid (s : State) : (idle s).rspValid = false := rfl
@[simp] theorem idle_wait (s : State) : (idle s).wait = s.wait := rfl
@[simp] theorem idle_host (s : State) : (idle s).host = s.host := rfl

/-! ### withHost -/

@[simp] theorem withHost_opr (h : List Pins) (s : State) : (withHost h s).opr = s.opr := rfl
@[simp] theorem withHost_a (h : List Pins) (s : State) : (withHost h s).a = s.a := rfl
@[simp] theorem withHost_b (h : List Pins) (s : State) : (withHost h s).b = s.b := rfl
@[simp] theorem withHost_res (h : List Pins) (s : State) : (withHost h s).res = s.res := rfl
@[simp] theorem withHost_ovf (h : List Pins) (s : State) : (withHost h s).ovf = s.ovf := rfl
@[simp] theorem withHost_err (h : List Pins) (s : State) : (withHost h s).err = s.err := rfl
@[simp] theorem withHost_rvalid (h : List Pins) (s : State) : (withHost h s).rvalid = s.rvalid := rfl
@[simp] theorem withHost_busy (h : List Pins) (s : State) : (withHost h s).busy = s.busy := rfl
@[simp] theorem withHost_rspValid (h : List Pins) (s : State) : (withHost h s).rspValid = s.rspValid := rfl
@[simp] theorem withHost_wait (h : List Pins) (s : State) : (withHost h s).wait = s.wait := rfl
@[simp] theorem withHost_host (h : List Pins) (s : State) : (withHost h s).host = h := rfl

/-! ### reset -/

@[simp] theorem reset_opr : State.reset.opr = 0 := rfl
@[simp] theorem reset_a : State.reset.a = 0 := rfl
@[simp] theorem reset_b : State.reset.b = 0 := rfl
@[simp] theorem reset_res : State.reset.res = 0 := rfl
@[simp] theorem reset_ovf : State.reset.ovf = false := rfl
@[simp] theorem reset_err : State.reset.err = 0 := rfl
@[simp] theorem reset_rvalid : State.reset.rvalid = false := rfl
@[simp] theorem reset_busy : State.reset.busy = false := rfl
@[simp] theorem reset_rspValid : State.reset.rspValid = false := rfl
@[simp] theorem reset_wait : State.reset.wait = 0 := rfl
@[simp] theorem reset_host : State.reset.host = [] := rfl

/-! ### Compositions that later proofs meet -/

@[simp] theorem responseOf_respond (r : Response) (s : State) : responseOf (respond r s) = r := rfl

/-- Completing twice is completing with the later response. -/
@[simp] theorem respond_respond (r r' : Response) (s : State) : respond r (respond r' s) = respond r s := rfl

@[simp] theorem respond_idle (r : Response) (s : State) : respond r (idle s) = respond r s := rfl

@[simp] theorem idle_idle (s : State) : idle (idle s) = idle s := rfl

end Sys2Proof.Machine
end

