-- ==== Sys2Proof/Laws/Ops.lean ====
section
/-! SUPPORT. What each shared operation does, once: the proofs cite these lemmas instead of unfolding. -/

namespace Sys2Proof.Machine

/-! ### Completion -/

@[simp] theorem complete_ok (r : Flagged) (s : State) :
    complete (.ok r) s = .next (respond (okResponse r) s) := rfl

@[simp] theorem complete_error (e : Err) (s : State) :
    complete (.error e) s = .next (respond (errResponse e) s) := rfl

@[simp] theorem completeOk_eq (r : Flagged) (s : State) :
    completeOk r s = .next (respond (okResponse r) s) := rfl

@[simp] theorem completeValue_ok (v : Int) (s : State) :
    completeValue (.ok v) s = .next (respond (okResponse (unflagged v)) s) := rfl

@[simp] theorem completeValue_error (e : Err) (s : State) :
    completeValue (.error e) s = .next (respond (errResponse e) s) := rfl

/-- Every command's end answers a next state, whose response is the value's or the error's. -/
theorem complete_next (x : Except Err Flagged) (s : State) :
    ∃ r, complete x s = .next (respond r s) ∧
      ((∃ v, x = .ok v ∧ r = okResponse v) ∨ (∃ e, x = .error e ∧ r = errResponse e)) := by
  cases x with
  | ok v => exact ⟨_, rfl, .inl ⟨v, rfl, rfl⟩⟩
  | error e => exact ⟨_, rfl, .inr ⟨e, rfl, rfl⟩⟩

/-- The same for a value that never sets the flag. -/
theorem completeValue_next (x : Except Err Int) (s : State) :
    ∃ r, completeValue x s = .next (respond r s) ∧
      ((∃ v, x = .ok v ∧ r = okResponse (unflagged v)) ∨ (∃ e, x = .error e ∧ r = errResponse e)) := by
  cases x with
  | ok v => exact ⟨_, rfl, .inl ⟨v, rfl, rfl⟩⟩
  | error e => exact ⟨_, rfl, .inr ⟨e, rfl, rfl⟩⟩

/-- The response written does not depend on the state it is written to. -/
theorem complete_uniform (x : Except Err Flagged) :
    ∃ r, ∀ s, complete x s = .next (respond r s) := by
  cases x with
  | ok v => exact ⟨_, fun _ => rfl⟩
  | error e => exact ⟨_, fun _ => rfl⟩

theorem completeOk_uniform (x : Flagged) : ∃ r, ∀ s, completeOk x s = .next (respond r s) :=
  ⟨_, fun _ => rfl⟩

@[simp] theorem okResponse_res (r : Flagged) : (okResponse r).res = wordOf r.value := rfl
@[simp] theorem okResponse_ovf (r : Flagged) : (okResponse r).ovf = r.ovf := rfl
@[simp] theorem okResponse_err (r : Flagged) : (okResponse r).err = 0 := rfl
@[simp] theorem errResponse_res (e : Err) : (errResponse e).res = 0 := rfl
@[simp] theorem errResponse_ovf (e : Err) : (errResponse e).ovf = false := rfl
@[simp] theorem errResponse_err (e : Err) : (errResponse e).err = errCode e := rfl
@[simp] theorem unflagged_value (v : Int) : (unflagged v).value = v := rfl
@[simp] theorem unflagged_ovf (v : Int) : (unflagged v).ovf = false := rfl
@[simp] theorem sat_value (t : Int) : (sat t).value = clamp t := rfl
@[simp] theorem sat_ovf (t : Int) : (sat t).ovf = decide (clamp t ≠ t) := rfl

theorem errCode_ne_zero (e : Err) : errCode e ≠ 0 := by cases e <;> decide

theorem errCode_le_four (e : Err) : (errCode e).toNat ≤ 4 := by cases e <;> decide

/-! ### Words and integers -/

theorem raw_lower (v : Word) : -(2 ^ 63) ≤ raw v := BitVec.le_toInt v

theorem raw_upper (v : Word) : raw v < 2 ^ 63 := BitVec.toInt_lt

@[simp] theorem wordOf_raw (v : Word) : wordOf (raw v) = v := BitVec.ofInt_toInt

/-- An integer in range survives the trip through its word. -/
theorem raw_wordOf {t : Int} (h1 : -(2 ^ 63) ≤ t) (h2 : t < 2 ^ 63) : raw (wordOf t) = t := by
  have := BitVec.toInt_ofInt_eq_self (w := 64) (n := t) (by decide) (by simpa using h1) (by simpa using h2)
  exact this

theorem wrap_eq_raw (t : Int) : wrap t = raw (wordOf t) := rfl

/-- `wrap` changes nothing in range. -/
theorem wrap_of_range {t : Int} (h1 : -(2 ^ 63) ≤ t) (h2 : t < 2 ^ 63) : wrap t = t := raw_wordOf h1 h2

theorem wrap_lower (t : Int) : -(2 ^ 63) ≤ wrap t := raw_lower _

theorem wrap_upper (t : Int) : wrap t < 2 ^ 63 := raw_upper _

@[simp] theorem wordOf_wrap (t : Int) : wordOf (wrap t) = wordOf t := wordOf_raw _

/-- What `clamp` answers, by cases. -/
theorem clamp_cases (t : Int) :
    (maxValue < t ∧ clamp t = maxValue) ∨ (t < minValue ∧ clamp t = minValue) ∨
      (minValue ≤ t ∧ t ≤ maxValue ∧ clamp t = t) := by
  unfold clamp
  split
  · exact .inl ⟨‹_›, rfl⟩
  · split
    · exact .inr (.inl ⟨‹_›, rfl⟩)
    · exact .inr (.inr ⟨by omega, by omega, rfl⟩)

theorem clamp_lower (t : Int) : -(2 ^ 63) ≤ clamp t := by
  rcases clamp_cases t with ⟨-, h⟩ | ⟨-, h⟩ | ⟨h1, -, h⟩ <;> rw [h] <;> simp [maxValue, minValue] at *; omega

theorem clamp_upper (t : Int) : clamp t < 2 ^ 63 := by
  rcases clamp_cases t with ⟨-, h⟩ | ⟨-, h⟩ | ⟨-, h1, h⟩ <;> rw [h] <;> simp [maxValue, minValue] at *; omega

theorem clamp_of_range {t : Int} (h1 : -(2 ^ 63) ≤ t) (h2 : t < 2 ^ 63) : clamp t = t := by
  rcases clamp_cases t with ⟨h, -⟩ | ⟨h, -⟩ | ⟨-, -, h⟩
  · simp [maxValue] at h; omega
  · simp [minValue] at h; omega
  · exact h

/-- The flag of `sat` is up exactly outside the range. -/
theorem sat_ovf_iff (t : Int) : (sat t).ovf = true ↔ (t < -(2 ^ 63) ∨ 2 ^ 63 ≤ t) := by
  rw [sat_ovf, decide_eq_true_iff]
  rcases clamp_cases t with ⟨h, e⟩ | ⟨h, e⟩ | ⟨h1, h2, e⟩ <;> rw [e] <;> simp [maxValue, minValue] at * <;> omega

/-! ### Integer helpers -/

/-- The dividend's remainder keeps its sign and stays below the divisor in magnitude. -/
theorem trem_eq_tmod (t d : Int) : trem t d = t.tmod d := by
  have := Int.tmod_add_tdiv_mul t d
  unfold trem tdiv
  rw [mul_comm] at this
  omega

theorem frac_range (x : Int) : 0 ≤ frac x ∧ frac x < 2 ^ 32 :=
  ⟨Int.emod_nonneg _ (by decide), Int.emod_lt_of_pos _ (by decide)⟩

theorem floorPart_le (x : Int) : floorPart x ≤ x := by
  have := frac_range x
  unfold floorPart
  omega

theorem lt_floorPart_add_one (x : Int) : x < floorPart x + 2 ^ 32 := by
  have := frac_range x
  unfold floorPart
  omega

/-- The bit-by-bit root keeps its invariant: from `r² ≤ n < (r + 2^k)²` it reaches the integer root. -/
theorem isqrtBits_spec (n : Nat) : ∀ k r, r * r ≤ n → n < (r + 2 ^ k) * (r + 2 ^ k) →
    isqrtBits n k r * isqrtBits n k r ≤ n ∧ n < (isqrtBits n k r + 1) * (isqrtBits n k r + 1)
  | 0, r, h1, h2 => ⟨h1, by simpa [isqrtBits] using h2⟩
  | k + 1, r, h1, h2 => by
    unfold isqrtBits
    split
    · refine isqrtBits_spec n k _ ‹_› ?_
      have : r + 2 ^ k + 2 ^ k = r + 2 ^ (k + 1) := by rw [pow_succ]; omega
      rw [this]
      exact h2
    · exact isqrtBits_spec n k r h1 (by omega)

/-- `isqrt` is the integer root of every number below `2^128`. -/
theorem isqrt_spec {n : Nat} (h : n < 2 ^ 128) :
    isqrt n * isqrt n ≤ n ∧ n < (isqrt n + 1) * (isqrt n + 1) :=
  isqrtBits_spec n 64 0 (by omega) (by omega)

/-! ### Division -/

theorem div_zero (x : Int) : div x 0 = .error .divzero := rfl

/-- Division by a non-zero divisor raises nothing and answers the clamped quotient. -/
theorem div_of_ne {x y : Int} (h : y ≠ 0) : div x y = .ok (clamp (divExact x y)) := by
  simp [div, satDiv, h, Except.map]

/-- The only error of `div` is DIVZERO, for a zero divisor. -/
theorem div_error {x y : Int} {e : Err} (h : div x y = .error e) : y = 0 ∧ e = .divzero := by
  by_cases hy : y = 0
  · subst hy
    rw [div_zero] at h
    exact ⟨rfl, by injection h with h; exact h.symm⟩
  · rw [div_of_ne hy] at h
    cases h

/-! ### Latency -/

theorem latency_pos (op : Opcode) (a b : Word) : 1 ≤ latency op a b := le_max_left _ _

/-- Every latency is bounded by one constant. -/
theorem latency_le (op : Opcode) (a b : Word) : latency op a b ≤ max 1 Config.latMax :=
  max_le_max le_rfl (min_le_right _ _)

end Sys2Proof.Machine
end

