-- ==== Sys2Proof/Laws/PerInstr.lean ====
section
/-! SUPPORT. Facts about every command, one lemma a constructor. `EncodedFields`: the three fields of a command's
word are its opcode and its two operands (spec/30_encoding.md R60, R64). -/

namespace Sys2Proof.Laws

/-- Unpacking a packed command word gives the opcode back. -/
theorem pack_opcode (op : Opcode) (a b : Word) : (CommandWord.pack op a b).opcode = op := by
  ext i hi
  simp only [CommandWord.pack, CommandWord.opcode, BitVec.getElem_extractLsb', BitVec.getLsbD_cast,
    BitVec.getLsbD_append]
  simp [show ¬ 128 + i < 128 by omega, hi]

/-- Unpacking a packed command word gives operand `a` back. -/
theorem pack_operandA (op : Opcode) (a b : Word) : (CommandWord.pack op a b).operandA = a := by
  ext i hi
  simp only [CommandWord.pack, CommandWord.operandA, BitVec.getElem_extractLsb', BitVec.getLsbD_cast,
    BitVec.getLsbD_append]
  simp [show 64 + i < 128 by omega, show ¬ 64 + i < 64 by omega, hi]

/-- Unpacking a packed command word gives operand `b` back. -/
theorem pack_operandB (op : Opcode) (a b : Word) : (CommandWord.pack op a b).operandB = b := by
  ext i hi
  simp only [CommandWord.pack, CommandWord.operandB, BitVec.getElem_extractLsb', BitVec.getLsbD_cast,
    BitVec.getLsbD_append]
  simp [show i < 128 by omega, hi]

/-- The fields of a command's word. -/
def EncodedFields.Statement (i : Instr) : Prop :=
  (encode i).opcode = i.mnemonic.opcode ∧ (encode i).operandA = i.operandA ∧
    (encode i).operandB = i.operandB

/-- The one proof behind the lemmas: a command's word is packed from its fields. -/
theorem encodedFields (i : Instr) : EncodedFields.Statement i :=
  ⟨pack_opcode _ _ _, pack_operandA _ _ _, pack_operandB _ _ _⟩

theorem EncodedFields.fromint (a b : Word) : EncodedFields.Statement (.fromint a b) := encodedFields _
theorem EncodedFields.toint (a b : Word) : EncodedFields.Statement (.toint a b) := encodedFields _
theorem EncodedFields.cmp (a b : Word) : EncodedFields.Statement (.cmp a b) := encodedFields _
theorem EncodedFields.add (a b : Word) : EncodedFields.Statement (.add a b) := encodedFields _
theorem EncodedFields.sub (a b : Word) : EncodedFields.Statement (.sub a b) := encodedFields _
theorem EncodedFields.mul (a b : Word) : EncodedFields.Statement (.mul a b) := encodedFields _
theorem EncodedFields.div (a b : Word) : EncodedFields.Statement (.div a b) := encodedFields _
theorem EncodedFields.mod (a b : Word) : EncodedFields.Statement (.mod a b) := encodedFields _
theorem EncodedFields.neg (a b : Word) : EncodedFields.Statement (.neg a b) := encodedFields _
theorem EncodedFields.inc (a b : Word) : EncodedFields.Statement (.inc a b) := encodedFields _
theorem EncodedFields.dec (a b : Word) : EncodedFields.Statement (.dec a b) := encodedFields _
theorem EncodedFields.fadd (a b : Word) : EncodedFields.Statement (.fadd a b) := encodedFields _
theorem EncodedFields.fsub (a b : Word) : EncodedFields.Statement (.fsub a b) := encodedFields _
theorem EncodedFields.fmul (a b : Word) : EncodedFields.Statement (.fmul a b) := encodedFields _
theorem EncodedFields.fmod (a b : Word) : EncodedFields.Statement (.fmod a b) := encodedFields _
theorem EncodedFields.floor (a b : Word) : EncodedFields.Statement (.floor a b) := encodedFields _
theorem EncodedFields.ceil (a b : Word) : EncodedFields.Statement (.ceil a b) := encodedFields _
theorem EncodedFields.round (a b : Word) : EncodedFields.Statement (.round a b) := encodedFields _
theorem EncodedFields.trunc (a b : Word) : EncodedFields.Statement (.trunc a b) := encodedFields _
theorem EncodedFields.sign (a b : Word) : EncodedFields.Statement (.sign a b) := encodedFields _
theorem EncodedFields.abs (a b : Word) : EncodedFields.Statement (.abs a b) := encodedFields _
theorem EncodedFields.fabs (a b : Word) : EncodedFields.Statement (.fabs a b) := encodedFields _
theorem EncodedFields.sqrt (a b : Word) : EncodedFields.Statement (.sqrt a b) := encodedFields _
theorem EncodedFields.sin (a b : Word) : EncodedFields.Statement (.sin a b) := encodedFields _
theorem EncodedFields.cos (a b : Word) : EncodedFields.Statement (.cos a b) := encodedFields _
theorem EncodedFields.tan (a b : Word) : EncodedFields.Statement (.tan a b) := encodedFields _
theorem EncodedFields.fsin (a b : Word) : EncodedFields.Statement (.fsin a b) := encodedFields _
theorem EncodedFields.fcos (a b : Word) : EncodedFields.Statement (.fcos a b) := encodedFields _
theorem EncodedFields.atan (a b : Word) : EncodedFields.Statement (.atan a b) := encodedFields _
theorem EncodedFields.atan2 (a b : Word) : EncodedFields.Statement (.atan2 a b) := encodedFields _
theorem EncodedFields.acos (a b : Word) : EncodedFields.Statement (.acos a b) := encodedFields _
theorem EncodedFields.log2 (a b : Word) : EncodedFields.Statement (.log2 a b) := encodedFields _
theorem EncodedFields.ln (a b : Word) : EncodedFields.Statement (.ln a b) := encodedFields _
theorem EncodedFields.pow2 (a b : Word) : EncodedFields.Statement (.pow2 a b) := encodedFields _
theorem EncodedFields.pow (a b : Word) : EncodedFields.Statement (.pow a b) := encodedFields _

end Sys2Proof.Laws
end

