-- ==== Sys2Proof/Laws/Rom.lean ====
section
/-! SUPPORT. The relations between the constants that spec/20_memory.md R45 lists, proved from the literals of R44,
and the roundings of multiples of π by which R44 obtains four of them. -/

namespace Sys2Proof.Machine

/-! ### Between the literals -/

theorem pi_eq_two_piOver2 : pi = 2 * piOver2 := by decide

theorem piTimes2_eq_two_pi_succ : piTimes2 = 2 * pi + 1 := by decide

/-- The last modulus of the angle reducer is `PiTimes2`. -/
theorem reducerModulus_last : reducerModulus 28 = piTimes2 := by decide

theorem reducerModulus_succ_lt : ∀ i < 28, reducerModulus (i + 1) < reducerModulus i := by decide

/-- The moduli `LargePi >> i`, `i = 0 .. 28`, are strictly decreasing. -/
theorem reducerModulus_strictAnti {i j : Nat} (hij : i < j) (hj : j ≤ 28) :
    reducerModulus j < reducerModulus i := by
  induction j, hij using Nat.le_induction with
  | base => exact reducerModulus_succ_lt i (by omega)
  | succ j hij ih => exact (reducerModulus_succ_lt j (by omega)).trans (ih (by omega))

/-- No modulus of the reducer is below the last. -/
theorem piTimes2_le_reducerModulus {i : Nat} (hi : i ≤ 28) : piTimes2 ≤ reducerModulus i := by
  rw [← reducerModulus_last]
  rcases hi.eq_or_lt with rfl | h
  · exact le_rfl
  · exact (reducerModulus_strictAnti h le_rfl).le

/-- The moduli `LargePi >> i`, `i = 0 .. 28`, are positive. -/
theorem reducerModulus_pos {i : Nat} (hi : i ≤ 28) : 0 < reducerModulus i :=
  lt_of_lt_of_le (by decide) (piTimes2_le_reducerModulus hi)

/-! ### Against π -/

/-- `2^29` is the largest power of two with `2^k · π < 2^31`. -/
theorem pow_mul_pi_lt_iff (k : Nat) : (2 : ℝ) ^ k * Real.pi < 2 ^ 31 ↔ k ≤ 29 := by
  constructor
  · intro h
    by_contra hk
    have hpow : (2 : ℝ) ^ 30 ≤ 2 ^ k := pow_le_pow_right₀ (by norm_num) (by omega)
    nlinarith [Real.pi_gt_three]
  · intro hk
    have hpow : (2 : ℝ) ^ k ≤ 2 ^ 29 := pow_le_pow_right₀ (by norm_num) hk
    nlinarith [Real.pi_lt_four, Real.pi_pos]

/-- `LargePi` is `2^29 · π` truncated to a raw value. -/
theorem largePi_eq_floor : largePi = ⌊2 ^ 29 * Real.pi * 2 ^ 32⌋ := by
  rw [eq_comm, Int.floor_eq_iff, largePi]
  constructor <;> push_cast <;> linarith [Real.pi_gt_d20, Real.pi_lt_d20]

/-- `LargePi` fits in a positive raw value. -/
theorem largePi_is_raw : 0 < largePi ∧ largePi ≤ maxValue := by decide

/-- Every relation of R45 holds. -/
theorem constantRelations : ConstantRelations where
  pi_double := pi_eq_two_piOver2
  piTimes2_double := piTimes2_eq_two_pi_succ
  modulus_last := reducerModulus_last
  modulus_decreasing _ _ := reducerModulus_strictAnti
  modulus_positive _ := reducerModulus_pos
  largest_power := pow_mul_pi_lt_iff
  largePi_fits := largePi_is_raw

theorem pi_eq_floor : pi = ⌊Real.pi * 2 ^ 32⌋ := by
  rw [eq_comm, Int.floor_eq_iff, pi]
  constructor <;> push_cast <;> linarith [Real.pi_gt_d20, Real.pi_lt_d20]

theorem piOver2_eq_floor : piOver2 = ⌊Real.pi / 2 * 2 ^ 32⌋ := by
  rw [eq_comm, Int.floor_eq_iff, piOver2]
  constructor <;> push_cast <;> linarith [Real.pi_gt_d20, Real.pi_lt_d20]

theorem piTimes2_eq_floor : piTimes2 = ⌊2 * Real.pi * 2 ^ 32⌋ := by
  rw [eq_comm, Int.floor_eq_iff, piTimes2]
  constructor <;> push_cast <;> linarith [Real.pi_gt_d20, Real.pi_lt_d20]

end Sys2Proof.Machine
end

