-- ==== Sys2Proof/Laws/Step.lean ====
section
/-! SUPPORT. What the meanings, the step and a clock edge can do, once. -/

namespace Sys2Proof.Machine

/-- A command's completion writes one response, which depends on the command alone. -/
theorem exec_uniform (i : Instr) : ∃ r, ∀ s, exec i s = .next (respond r s) := by
  cases i <;> first | exact complete_uniform _ | exact completeOk_uniform _

/-- Completing the latched command writes one response, which depends on the latches alone. -/
theorem completeLatched_uniform (op : Opcode) (a b : Word) :
    ∃ r, ∀ s : State, s.opr = op → s.a = a → s.b = b → completeLatched s = .next (respond r s) := by
  cases h : decodeFields op a b with
  | ok i =>
    obtain ⟨r, hr⟩ := exec_uniform i
    refine ⟨r, fun s h1 h2 h3 => ?_⟩
    unfold completeLatched
    rw [h1, h2, h3, h]
    exact hr s
  | error e =>
    refine ⟨errResponse .illop, fun s h1 h2 h3 => ?_⟩
    unfold completeLatched
    rw [h1, h2, h3, h]
    rfl

theorem completeLatched_next (s : State) : ∃ r, completeLatched s = .next (respond r s) := by
  obtain ⟨r, hr⟩ := completeLatched_uniform s.opr s.a s.b
  exact ⟨r, hr s rfl rfl rfl⟩

/-- Everything a step can do. -/
theorem step_cases {s t : State} (h : step s = .next t) :
    (∃ r, (s.busy = true ∧ (∀ p rest, s.host = p :: rest → p.rst = false)) ∧
      completeLatched s = .next (respond r s) ∧ t = respond r s) ∨
    (∃ p rest, s.host = p :: rest ∧ p.rst = true ∧ t = resetRegisters (withHost rest s)) ∨
    (∃ p rest r, s.host = p :: rest ∧ p.rst = false ∧ p.cmdValid = true ∧ s.busy = false ∧
      completeLatched (accept p (withHost rest s)) = .next (respond r (accept p (withHost rest s))) ∧
      t = respond r (accept p (withHost rest s))) ∨
    (∃ rest, s.busy = false ∧ t = idle (withHost rest s)) := by
  obtain ⟨rl, hl⟩ := completeLatched_next s
  unfold step hostStep at h
  cases hh : s.host with
  | nil =>
    rw [hh] at h
    dsimp only at h
    split at h
    · rw [hl] at h
      injection h with h
      exact .inl ⟨rl, ⟨‹_›, fun _ _ e => by cases e⟩, hl, h.symm⟩
    · injection h with h
      refine .inr (.inr (.inr ⟨[], by simpa using ‹¬ s.busy = true›, ?_⟩))
      rw [← h, ← hh]
      rfl
  | cons p rest =>
    rw [hh] at h
    dsimp only at h
    split at h
    · rename_i hb
      rw [hl] at h
      injection h with h
      rw [Bool.and_eq_true, Bool.not_eq_true'] at hb
      refine .inl ⟨rl, ⟨hb.1, fun p' rest' e => ?_⟩, hl, h.symm⟩
      injection e with e1 e2
      rw [← e1]
      exact hb.2
    · rename_i hb
      unfold takePins at h
      split at h
      · injection h with h
        exact .inr (.inl ⟨p, rest, rfl, ‹_›, h.symm⟩)
      · rename_i hr
        have hr : p.rst = false := by simpa using hr
        have hbusy : s.busy = false := by simpa [hr] using hb
        split at h
        · obtain ⟨r, hc⟩ := completeLatched_next (accept p (withHost rest s))
          rw [hc] at h
          injection h with h
          exact .inr (.inr (.inl ⟨p, rest, r, rfl, hr, ‹_›, hbusy, hc, h.symm⟩))
        · injection h with h
          exact .inr (.inr (.inr ⟨rest, hbusy, h.symm⟩))

/-- Everything a clock edge can do. -/
theorem clockEdge_cases (p : Pins) (s : State) :
    (p.rst = true ∧ clockEdge p s = .next (resetRegisters s)) ∨
    (p.rst = false ∧ s.busy = true ∧ 2 ≤ s.wait ∧
      clockEdge p s = .next { idle s with wait := s.wait - 1 }) ∨
    (p.rst = false ∧ s.busy = true ∧ s.wait ≤ 1 ∧
      clockEdge p s = completeLatched (idle s)) ∨
    (p.rst = false ∧ s.busy = false ∧ p.cmdValid = true ∧ 2 ≤ latency p.cmdOp p.cmdA p.cmdB ∧
      clockEdge p s = .next { accept p s with wait := latency p.cmdOp p.cmdA p.cmdB - 1 }) ∨
    (p.rst = false ∧ s.busy = false ∧ p.cmdValid = true ∧ latency p.cmdOp p.cmdA p.cmdB = 1 ∧
      clockEdge p s = completeLatched (accept p s)) ∨
    (p.rst = false ∧ s.busy = false ∧ p.cmdValid = false ∧ clockEdge p s = .next (idle s)) := by
  have hpos := latency_pos p.cmdOp p.cmdA p.cmdB
  by_cases hw : s.wait ≤ 1 <;> by_cases hl : latency p.cmdOp p.cmdA p.cmdB ≤ 1 <;>
    cases hr : p.rst <;> cases hb : s.busy <;> cases hv : p.cmdValid <;>
    simp [clockEdge, busyEdge, hw, hl, hr, hb, hv, idle] <;> omega

end Sys2Proof.Machine
end

