-- ==== Sys2Proof/Machine/Listing.lean ====
section
/-! DEFINITION. Assembling a listing line into a command, with the responses the host has received so far
(spec/30_encoding.md R69, R70). A host-side convention: no step of the machine uses it. -/

namespace Sys2Proof.Machine

/-- The word an operand stands for, given the responses to the earlier lines in order (R69). A `$k` whose line has
no response yet, or whose response is an error, stands for nothing (R70). -/
def operandWord (responses : List Response) : ListingOperand → Option Word
  | .hex v => some (BitVec.ofNat 64 v)
  | .dec k => some (wordOf k)
  | .fx k => some (wordOf (fromInt k))
  | .const c => some (wordOf (constLiteral c))
  | .ref 0 => none
  | .ref (k + 1) =>
    match responses[k]? with
    | some r => if r.err = 0 then some r.res else none
    | none => none

/-- The command of a listing line; a one-operand line encodes `b` as 0 (R69). -/
def assembleLine (responses : List Response) (l : ListingLine) : Option Instr :=
  if l.wellFormed (responses.length + 1) then
    match l.operands with
    | [x] => (operandWord responses x).map (fun a => l.mnemonic.instr a 0)
    | [x, y] =>
      match operandWord responses x, operandWord responses y with
      | some a, some b => some (l.mnemonic.instr a b)
      | _, _ => none
    | _ => none
  else none

end Sys2Proof.Machine
end

