-- ==== Sys2Proof/Tests/Slice0.lean ====
section
/-! SUPPORT. Small tests, with expected results from the worked examples of spec/, and for each statement that has
hypotheses a named state or operands that meet them. -/

namespace Sys2Proof.Tests

open Sys2Proof.Machine

-- One thread a theorem would pass the memory limit of the check.
set_option Elab.async false

/-! ### Well-formedness: for each check a term it refuses -/

/-- 0x13 is not a fast divide (spec/30_encoding.md R66, R67). -/
theorem test_wf_reserved_word : CommandWord.wellFormed 0x1300000006000000000000000300000000 = false := by decide
theorem test_wf_assigned_word : CommandWord.wellFormed 0x0B00000001000000000000000200000000 = true := by decide
theorem test_wf_reserved_count : reservedOpcodes.length = 29 ∧ reservedOpcodes.Nodup := by decide
theorem test_wf_hex_too_wide : ListingOperand.wellFormed 1 (.hex (2 ^ 64)) = false := by decide
theorem test_wf_dec_too_big : ListingOperand.wellFormed 1 (.dec (2 ^ 63)) = false := by decide
theorem test_wf_fx_out_of_range : ListingOperand.wellFormed 1 (.fx (2 ^ 31)) = false := by decide
theorem test_wf_forward_reference : ListingOperand.wellFormed 2 (.ref 2) = false := by decide
theorem test_wf_operand_count : ListingLine.wellFormed 1 { mnemonic := .add, operands := [.fx 1] } = false := by decide
theorem test_wf_line : ListingLine.wellFormed 2 { mnemonic := .add, operands := [.ref 1, .const .one] } = true := by decide

/-! ### Decoding: one word a constructor, written out from spec/30_encoding.md R60 and R64 -/

theorem test_decode_fromint : decode 0x018000000000000001FEDCBA9876543210 =
    .ok (.fromint 0x8000000000000001 0xFEDCBA9876543210) := by decide
theorem test_decode_toint : decode 0x028000000000000001FEDCBA9876543210 =
    .ok (.toint 0x8000000000000001 0xFEDCBA9876543210) := by decide
theorem test_decode_cmp : decode 0x038000000000000001FEDCBA9876543210 =
    .ok (.cmp 0x8000000000000001 0xFEDCBA9876543210) := by decide
theorem test_decode_add : decode 0x088000000000000001FEDCBA9876543210 =
    .ok (.add 0x8000000000000001 0xFEDCBA9876543210) := by decide
theorem test_decode_sub : decode 0x098000000000000001FEDCBA9876543210 =
    .ok (.sub 0x8000000000000001 0xFEDCBA9876543210) := by decide
theorem test_decode_mul : decode 0x0A8000000000000001FEDCBA9876543210 =
    .ok (.mul 0x8000000000000001 0xFEDCBA9876543210) := by decide
theorem test_decode_div : decode 0x0B8000000000000001FEDCBA9876543210 =
    .ok (.div 0x8000000000000001 0xFEDCBA9876543210) := by decide
theorem test_decode_mod : decode 0x0C8000000000000001FEDCBA9876543210 =
    .ok (.mod 0x8000000000000001 0xFEDCBA9876543210) := by decide
theorem test_decode_neg : decode 0x0D8000000000000001FEDCBA9876543210 =
    .ok (.neg 0x8000000000000001 0xFEDCBA9876543210) := by decide
theorem test_decode_inc : decode 0x0E8000000000000001FEDCBA9876543210 =
    .ok (.inc 0x8000000000000001 0xFEDCBA9876543210) := by decide
theorem test_decode_dec : decode 0x0F8000000000000001FEDCBA9876543210 =
    .ok (.dec 0x8000000000000001 0xFEDCBA9876543210) := by decide
theorem test_decode_fadd : decode 0x108000000000000001FEDCBA9876543210 =
    .ok (.fadd 0x8000000000000001 0xFEDCBA9876543210) := by decide
theorem test_decode_fsub : decode 0x118000000000000001FEDCBA9876543210 =
    .ok (.fsub 0x8000000000000001 0xFEDCBA9876543210) := by decide
theorem test_decode_fmul : decode 0x128000000000000001FEDCBA9876543210 =
    .ok (.fmul 0x8000000000000001 0xFEDCBA9876543210) := by decide
theorem test_decode_fmod : decode 0x148000000000000001FEDCBA9876543210 =
    .ok (.fmod 0x8000000000000001 0xFEDCBA9876543210) := by decide
theorem test_decode_floor : decode 0x188000000000000001FEDCBA9876543210 =
    .ok (.floor 0x8000000000000001 0xFEDCBA9876543210) := by decide
theorem test_decode_ceil : decode 0x198000000000000001FEDCBA9876543210 =
    .ok (.ceil 0x8000000000000001 0xFEDCBA9876543210) := by decide
theorem test_decode_round : decode 0x1A8000000000000001FEDCBA9876543210 =
    .ok (.round 0x8000000000000001 0xFEDCBA9876543210) := by decide
theorem test_decode_trunc : decode 0x1B8000000000000001FEDCBA9876543210 =
    .ok (.trunc 0x8000000000000001 0xFEDCBA9876543210) := by decide
theorem test_decode_sign : decode 0x1C8000000000000001FEDCBA9876543210 =
    .ok (.sign 0x8000000000000001 0xFEDCBA9876543210) := by decide
theorem test_decode_abs : decode 0x1D8000000000000001FEDCBA9876543210 =
    .ok (.abs 0x8000000000000001 0xFEDCBA9876543210) := by decide
theorem test_decode_fabs : decode 0x1E8000000000000001FEDCBA9876543210 =
    .ok (.fabs 0x8000000000000001 0xFEDCBA9876543210) := by decide
theorem test_decode_sqrt : decode 0x208000000000000001FEDCBA9876543210 =
    .ok (.sqrt 0x8000000000000001 0xFEDCBA9876543210) := by decide
theorem test_decode_sin : decode 0x288000000000000001FEDCBA9876543210 =
    .ok (.sin 0x8000000000000001 0xFEDCBA9876543210) := by decide
theorem test_decode_cos : decode 0x298000000000000001FEDCBA9876543210 =
    .ok (.cos 0x8000000000000001 0xFEDCBA9876543210) := by decide
theorem test_decode_tan : decode 0x2A8000000000000001FEDCBA9876543210 =
    .ok (.tan 0x8000000000000001 0xFEDCBA9876543210) := by decide
theorem test_decode_fsin : decode 0x2C8000000000000001FEDCBA9876543210 =
    .ok (.fsin 0x8000000000000001 0xFEDCBA9876543210) := by decide
theorem test_decode_fcos : decode 0x2D8000000000000001FEDCBA9876543210 =
    .ok (.fcos 0x8000000000000001 0xFEDCBA9876543210) := by decide
theorem test_decode_atan : decode 0x308000000000000001FEDCBA9876543210 =
    .ok (.atan 0x8000000000000001 0xFEDCBA9876543210) := by decide
theorem test_decode_atan2 : decode 0x318000000000000001FEDCBA9876543210 =
    .ok (.atan2 0x8000000000000001 0xFEDCBA9876543210) := by decide
theorem test_decode_acos : decode 0x328000000000000001FEDCBA9876543210 =
    .ok (.acos 0x8000000000000001 0xFEDCBA9876543210) := by decide
theorem test_decode_log2 : decode 0x348000000000000001FEDCBA9876543210 =
    .ok (.log2 0x8000000000000001 0xFEDCBA9876543210) := by decide
theorem test_decode_ln : decode 0x358000000000000001FEDCBA9876543210 =
    .ok (.ln 0x8000000000000001 0xFEDCBA9876543210) := by decide
theorem test_decode_pow2 : decode 0x368000000000000001FEDCBA9876543210 =
    .ok (.pow2 0x8000000000000001 0xFEDCBA9876543210) := by decide
theorem test_decode_pow : decode 0x378000000000000001FEDCBA9876543210 =
    .ok (.pow 0x8000000000000001 0xFEDCBA9876543210) := by decide
theorem test_decode_zero_word : decode 0 = .error (.reservedOpcode 0) := by decide
theorem test_decode_all_ones : decode (BitVec.allOnes 134) = .error (.reservedOpcode 0x3F) := by decide
theorem test_table_word : decodeTableWord 136 0x0C00000000000000070000000000000003 = some (.mod 7 3) := by decide
theorem test_table_word_too_wide : decodeTableWord 136 0x8C00000000000000070000000000000003 = none := by decide
theorem test_opcodes_distinct : ∀ op : Opcode, (mnemonicOf op).all (fun m => m.opcode == op) = true := by decide
theorem test_reserved_iff_no_mnemonic : ∀ op : Opcode, reservedOpcodes.contains op = (mnemonicOf op).isNone := by
  decide

/-! ### Constants (spec/20_memory.md R44; Laws/Rom.lean proves the relations of R45) -/

theorem test_lut_length : (lutLength : Int) = floorDiv piOver2 (2 ^ 15) := by decide
theorem test_lut_interval : div (fromInt (lutLength - 1)) piOver2 = .ok lutInterval := by decide

/-! ### Commands: examples of the command rules and of spec/95_test_vectors.md -/

/-- The response with these three fields. -/
def rsp (res : Word) (ovf : Bool) (err : BitVec 3) : Response := { res := res, ovf := ovf, err := err }

theorem test_fromint : response (.fromint 0x0000000000000003 0) = rsp 0x0000000300000000 false 0 := by decide +kernel
theorem test_fromint_corner : response (.fromint 0x100000001 0) = rsp 0x100000000 false 0 := by decide +kernel
theorem test_toint : response (.toint 0xFFFFFFFC4CCCCCCD 0) = rsp 0xFFFFFFFFFFFFFFFC false 0 := by decide +kernel
theorem test_cmp : response (.cmp 0x8000000000000000 0x7FFFFFFFFFFFFFFF) = rsp 0xFFFFFFFFFFFFFFFF false 0 := by decide +kernel
theorem test_cmp_corner : response (.cmp 1 0xFFFFFFFFFFFFFFFF) = rsp 1 false 0 := by decide +kernel
theorem test_add : response (.add 0x7FFFFFFFFFFFFFFF 0x100000000) = rsp 0x7FFFFFFFFFFFFFFF true 0 := by decide +kernel
theorem test_add_corner : response (.add 0xC000000000000000 0xC000000000000000) = rsp 0x8000000000000000 false 0 := by decide +kernel
theorem test_sub : response (.sub 0x300000000 0x500000000) = rsp 0xFFFFFFFE00000000 false 0 := by decide +kernel
theorem test_sub_corner : response (.sub 0 0x8000000000000000) = rsp 0x7FFFFFFFFFFFFFFF true 0 := by decide +kernel
theorem test_mul : response (.mul 0x180000000 0xFFFFFFFD80000000) = rsp 0xFFFFFFFC40000000 false 0 := by decide +kernel
theorem test_mul_corner : response (.mul 0xFFFFFFFEFFFFFFFF 0x8000000080000004) = rsp 0x7FFFFFFFFFFFFFFB false 0 := by decide +kernel
theorem test_div : response (.div 0xFFFFFFFE00000000 0x300000000) = rsp 0xFFFFFFFF55555555 false 0 := by decide +kernel
theorem test_div_corner : response (.div 0 0) = rsp 0 false 1 := by decide +kernel
theorem test_mod : response (.mod 0xFFFFFFF900000000 0x300000000) = rsp 0xFFFFFFFF00000000 false 0 := by decide +kernel
theorem test_mod_corner : response (.mod 0x8000000000000000 0xFFFFFFFFFFFFFFFF) = rsp 0 false 0 := by decide +kernel
theorem test_neg : response (.neg 0x8000000000000000 5) = rsp 0x7FFFFFFFFFFFFFFF true 0 := by decide +kernel
theorem test_inc : response (.inc 0x7FFFFFFEFFFFFFFF 0) = rsp 0x7FFFFFFFFFFFFFFF false 0 := by decide +kernel
theorem test_inc_corner : response (.inc 0x7FFFFFFF00000000 0) = rsp 0x7FFFFFFFFFFFFFFF true 0 := by decide +kernel
theorem test_dec : response (.dec 0x80000000FFFFFFFF 0) = rsp 0x8000000000000000 true 0 := by decide +kernel
theorem test_dec_corner : response (.dec 0 0) = rsp 0xFFFFFFFF00000000 false 0 := by decide +kernel
theorem test_fadd : response (.fadd 0x7FFFFFFFFFFFFFFF 0x100000000) = rsp 0x80000000FFFFFFFF false 0 := by decide +kernel
theorem test_fsub : response (.fsub 0x8000000000000000 1) = rsp 0x7FFFFFFFFFFFFFFF false 0 := by decide +kernel
theorem test_fmul : response (.fmul 0x7FFFFFFFFFFFFFFF 0x7FFFFFFFFFFFFFFF) = rsp 0xFFFFFFFF00000000 false 0 := by decide +kernel
theorem test_fmul_corner : response (.fmul 0xB50500000000 0xB50500000000) = rsp 0x8000121900000000 false 0 := by decide +kernel
theorem test_fmod : response (.fmod 0x8000000000000000 0xFFFFFFFFFFFFFFFF) = rsp 0 false 4 := by decide +kernel
theorem test_fmod_corner : response (.fmod 0x8000000000000000 0xFFFFFFFF00000000) = rsp 0 false 0 := by decide +kernel
theorem test_floor : response (.floor 0xFFFFFFFC4CCCCCCD 0) = rsp 0xFFFFFFFC00000000 false 0 := by decide +kernel
theorem test_ceil : response (.ceil 0x7FFFFFFF00000001 0) = rsp 0x7FFFFFFFFFFFFFFF true 0 := by decide +kernel
theorem test_ceil_corner : response (.ceil 0xFFFFFFFC4CCCCCCD 0) = rsp 0xFFFFFFFD00000000 false 0 := by decide +kernel
theorem test_round : response (.round 0x280000000 0) = rsp 0x200000000 false 0 := by decide +kernel
theorem test_round_corner : response (.round 0xFFFFFFFC80000000 0) = rsp 0xFFFFFFFC00000000 false 0 := by decide +kernel
theorem test_trunc : response (.trunc 0xFFFFFFFC4CCCCCCD 0) = rsp 0xFFFFFFFD00000000 false 0 := by decide +kernel
theorem test_trunc_corner : response (.trunc 0xFFFFFFFD00000000 0) = rsp 0xFFFFFFFD00000000 false 0 := by decide +kernel
theorem test_sign : response (.sign 0xFFFFFFFC4CCCCCCD 0) = rsp 0xFFFFFFFFFFFFFFFF false 0 := by decide +kernel
theorem test_abs : response (.abs 0x8000000000000000 0) = rsp 0x7FFFFFFFFFFFFFFF true 0 := by decide +kernel
theorem test_fabs : response (.fabs 0x8000000000000000 0) = rsp 0x8000000000000000 false 0 := by decide +kernel
theorem test_fabs_corner : response (.fabs 0xFFFFFFFF80000000 0) = rsp 0x80000000 false 0 := by decide +kernel
theorem test_sqrt : response (.sqrt 0x2 0) = rsp 0x16A0A false 0 := by decide +kernel
theorem test_sqrt_corner : response (.sqrt 0xFFFFFFFFFFFFFFFF 0) = rsp 0 false 2 := by decide +kernel
theorem test_atan : response (.atan 0x80000000 0) = rsp 0x76B19C12 false 0 := by decide +kernel
theorem test_atan_corner : response (.atan 0x8000000000000000 0) = rsp 0xFFFFFFFE6DE04ABE false 0 := by decide +kernel
theorem test_atan2 : response (.atan2 0x300000000 0x100000000) = rsp 0x13F5D804D false 0 := by decide +kernel
theorem test_atan2_corner : response (.atan2 0xFFFFFFFF00000000 0xFFFFFFFE00000000) = rsp 0xFFFFFFFD5360E208 false 0 := by decide +kernel
/-- R183's denominator at the ends of its short circuit (log entry 18): -376136759264847 fires, 376136759264847 does
not. -/
theorem test_atan2_short_circuit : atan2Denominator 376136759264848 = maxValue ∧
    atan2Denominator 376136759264847 = maxValue - 1442 ∧ atan2Denominator (-376136759264847) = maxValue ∧
    atan2Denominator (-376136759264846) = maxValue - 25963 := by decide +kernel
theorem test_acos : response (.acos 0x80000000 0) = rsp 0x10C152387 false 0 := by decide +kernel
theorem test_acos_corner : response (.acos 0x100000001 0) = rsp 0 false 2 := by decide +kernel
theorem test_log2 : response (.log2 0x300000000 0) = rsp 0x195C01A39 false 0 := by decide +kernel
theorem test_log2_corner : response (.log2 1 0) = rsp 0xFFFFFFE000000000 false 0 := by decide +kernel
theorem test_ln : response (.ln 0xA00000000 0) = rsp 0x24D763773 false 0 := by decide +kernel
theorem test_pow2 : response (.pow2 0x80000000 0) = rsp 0x16A09E666 false 0 := by decide +kernel
theorem test_pow2_corner : response (.pow2 0xFFFFFFE000000001 0) = rsp 2 false 0 := by decide +kernel
theorem test_pow : response (.pow 0xA00000000 0x200000000) = rsp 0x63FFFFFF80 false 0 := by decide +kernel
theorem test_pow_corner : response (.pow 0 0xFFFFFFFFFFFFFFFF) = rsp 0 false 1 := by decide +kernel

/-! ### Trigonometry, with the table entries spec/95_test_vectors.md lists for each row -/

/-- A table that holds two entries and 0 elsewhere. -/
def lut2 (i : Nat) (x : Word) (j : Nat) (y : Word) : Lut := fun k => if k = i then x else if k = j then y else 0

theorem test_sin_one : sinValue (lut2 131071 3614088617 131072 3614106322) one = 3614090360 := by decide +kernel
theorem test_sin_minus_hundred :
    sinValue (lut2 69594 2174819499 69595 2174847756) (fromInt (-100)) = 2174823867 := by decide +kernel
theorem test_cos_two : sinValue (lut2 56256 1787331186 56257 1787360982) (cosAngle two) = -1787337054 := by
  decide +kernel
theorem test_cos_max : sinValue (lut2 31472 1021400410 31473 1021432238) (cosAngle maxValue) = 1021412783 := by
  decide +kernel
theorem test_tan_at_pole :
    tanValue (lut2 205886 9223372036854775807 205885 562946081298394) piOver2 = 9223372034707423230 := by decide +kernel
theorem test_tan_minus_one : tanValue (lut2 131071 6689004193 131072 6689116442) (-one) = -6689015244 := by
  decide +kernel
theorem test_fsin_index_clamp : fastSinValue (lut2 205886 4294967296 0 7) (piOver2 - 1) = 4294967296 := by decide +kernel
theorem test_fsin_minus_one : fastSinValue (lut2 131071 3614088617 0 7) (-one) = -3614088617 := by decide +kernel
theorem test_fcos_one : fastSinValue (lut2 74814 2320555875 0 7) (cosAngle one) = 2320555875 := by decide +kernel
/-- spec/44_trig.md R148. -/
theorem test_reduce_sin_minus_turn : reduceSin (-piTimes2) = { q := 1, fh := false, fv := true } := by decide +kernel
theorem test_reduce_sin_hundred : reduceSin (fromInt 100) = { q := 4466041909, fh := true, fv := true } := by
  decide +kernel

/-! ### Procedures (spec/41_saturating_arithmetic.md R106, spec/43_sqrt.md R138) -/

theorem test_restoring_division_rounds : divByRestoring two three = 0xAAAAAAAB := by decide +kernel
theorem test_restoring_division_exit : divByRestoring minValue one = minValue := by decide +kernel
/-- R138's procedure and R136's contract differ here (log entry 19). -/
theorem test_digit_root_one_less : sqrtByDigits 0x640000013FFF6001 = 0xA0000000FFFF ∧
    response (.sqrt 0x640000013FFF6001 0) = rsp 0xA00000010000 false 0 := by decide +kernel
theorem test_digit_root_max : sqrtByDigits 0x7FFFFFFFFFFFFFFF = 0x0000B504F333F9DE := by decide +kernel

/-! ### Steps -/

/-- The state after reset with one command word presented. -/
def presenting (w : Nat) : State := State.reset.withFetchWord 136 w

/-- SUB 3.0, 5.0 presented after reset. -/
def subPins : Pins := commandPins 0x0900000003000000000000000500000000

/-- An idle input port. -/
def quietPins : Pins := { rst := false, cmdValid := false, cmdOp := 0, cmdA := 0, cmdB := 0 }

/-- The reset pin high. -/
def resetPins : Pins := { quietPins with rst := true }

/-- The end state of spec/95_test_vectors.md P1's last line: latches, response and `BUSY`. -/
theorem test_step_toint : step (presenting 0x0200000005000000000000000000000000) =
    .next { State.reset with opr := 0x02, a := 0x500000000, res := 5, rvalid := true, rspValid := true } := by rfl

/-- Line 6 of P2: a reserved opcode is an error response. -/
theorem test_step_reserved : step (presenting 0x0000000001000000000000000200000000) =
    .next { State.reset with a := 0x100000000, b := 0x200000000, err := 3, rvalid := true, rspValid := true } := by
  rfl

/-- From reset with nothing placed the block idles. -/
theorem test_step_idle : step State.reset = .next State.reset := by rfl

/-- Cycles 6 to 8 of P6: a command in flight at reset is abandoned. -/
theorem test_reset_in_flight : clockEdge resetPins
    { State.reset with opr := 0x20, a := 0x900000000, busy := true, wait := 2, rvalid := true, res := 0x800000000 } =
    .next State.reset := by rfl

/-- Cycle 2 of P6: a busy block takes nothing. -/
theorem test_busy_edge : clockEdge subPins { State.reset with opr := 0x20, a := 0x400000000, busy := true, wait := 2 } =
    .next { State.reset with opr := 0x20, a := 0x400000000, busy := true, wait := 1 } := by rfl

/-- Cycle 3 of P6: the last edge of the latency completes SQRT 4.0. -/
theorem test_completing_edge :
    clockEdge subPins { State.reset with opr := 0x20, a := 0x400000000, busy := true, wait := 1 } =
    .next { State.reset with opr := 0x20, a := 0x400000000, res := 0x200000000, rvalid := true, rspValid := true } := by
  rfl

/-! ### Listings (spec/30_encoding.md R69, R70; spec/95_test_vectors.md P5 line 2 and P2 line 3) -/

theorem test_listing_forwards_result :
    assembleLine [rsp 0x35269E12F false 0] { mnemonic := .mul, operands := [.hex 0x80000000, .ref 1] } =
      some (.mul 0x80000000 0x35269E12F) := by decide
theorem test_listing_stops_at_error :
    assembleLine [rsp 0 false 1] { mnemonic := .inc, operands := [.ref 1] } = none := by decide
theorem test_listing_one_operand :
    assembleLine [] { mnemonic := .sqrt, operands := [.fx (-4)] } = some (.sqrt 0xFFFFFFFC00000000 0) := by decide

/-! ### Witnesses: the hypotheses of each statement that has some -/

theorem witness_EncodeOfDecodeIsTheWord : decode 0x0C00000000000000070000000000000003 = .ok (.mod 7 3) := by decide

theorem witness_StepRunsTheDecodedCommand :
    (presenting 0x0900000003000000000000000500000000).busy = false ∧
    (presenting 0x0900000003000000000000000500000000).host = subPins :: [] ∧
    subPins.rst = false ∧ subPins.cmdValid = true ∧
    decode (CommandWord.pack subPins.cmdOp subPins.cmdA subPins.cmdB) = .ok (.sub 0x300000000 0x500000000) := by decide

/-- A block with a command in flight, and nothing or a cycle without reset to come. -/
def inFlight (h : List Pins) : State :=
  { State.reset with opr := 0x20, a := 0x400000000, busy := true, wait := 2, host := h }

theorem witness_StepRunsTheDecodedCommand_busy :
    (∀ p, (inFlight []).host.head? = some p → p.rst = false) ∧
    (∀ p, (inFlight [subPins]).host.head? = some p → p.rst = false) ∧
    decode (CommandWord.pack (inFlight []).opr (inFlight []).a (inFlight []).b) = .ok (.sqrt 0x400000000 0) := by
  refine ⟨fun p h => ?_, fun p h => ?_, by decide⟩
  · cases h
  · cases h
    rfl

theorem witness_StepRunsTheDecodedCommand_idle : resetPins.rst = true ∧ quietPins.rst = false ∧
    quietPins.cmdValid = false ∧ (inFlight [resetPins]).host = resetPins :: [] ∧
    State.reset.busy = false ∧ State.reset.host = [] := by decide

theorem witness_PlacedCommandRunsNext :
    decodeTableWord 136 0x0900000003000000000000000500000000 = some (.sub 0x300000000 0x500000000) := by decide

theorem witness_ReservedOpcodeRespondsIllop :
    let p := commandPins 0x3F00000000000000010000000000000002
    (presenting 0x3F00000000000000010000000000000002).busy = false ∧
    (presenting 0x3F00000000000000010000000000000002).host = p :: [] ∧
    p.rst = false ∧ p.cmdValid = true ∧ p.cmdOp ∈ reservedOpcodes := by decide

theorem witness_UnusedOperandIsIgnored : Mnemonic.log2.operandCount = 1 := by decide

theorem witness_ResetEdgeAbandonsCommand : resetPins.rst = true := by decide

/-- NEG of `MinValue` just answered, and a command waiting. -/
def afterNeg : State :=
  { opr := 0x0D, a := 0x8000000000000000, b := 0, res := 0x7FFFFFFFFFFFFFFF, ovf := true, err := 0, rvalid := true,
    busy := false, rspValid := true, wait := 0, host := [subPins] }

/-- A block at rest after a response meets the invariant. -/
theorem inv_after_response : Inv afterNeg where
  errLegal := by unfold ErrLegal; decide
  errorsEmpty := by intro h; exact absurd rfl h
  flagMeansClamped := by intro _; left; decide
  unansweredIsReset := by intro h; cases h
  pulseAfterCompletion := by intro _; exact ⟨rfl, rfl⟩
  waitMatchesBusy := by unfold WaitMatchesBusy; decide
  responseOfLatches := by intro _ _; rfl

/-- StepKeepsInvariant, ClockEdgeKeepsInvariant: a state that meets the invariant and completes a command next. -/
theorem witness_StepKeepsInvariant : ∃ s t : State, Inv s ∧ step s = .next t ∧ t.res = 0xFFFFFFFE00000000 :=
  ⟨_, _, inv_after_response, rfl, by decide⟩

theorem witness_ClockEdgeKeepsInvariant : ∃ (p : Pins) (s t : State), Inv s ∧ clockEdge p s = .next t :=
  ⟨quietPins, _, _, inv_after_response, rfl⟩

theorem witness_TimedMachineRefinesStep : ∃ (s : State) (p : Pins) (ps : List Pins),
    s.busy = false ∧ p.rst = false ∧ p.cmdValid = true ∧ (∀ q ∈ ps, q.rst = false) ∧
      ps.length + 1 = latency p.cmdOp p.cmdA p.cmdB := by
  refine ⟨State.reset, subPins, List.replicate (latency subPins.cmdOp subPins.cmdA subPins.cmdB - 1) quietPins,
    rfl, rfl, rfl, fun q hq => ?_, ?_⟩
  · rw [List.eq_of_mem_replicate hq]
    rfl
  · rw [List.length_replicate]
    have := latency_pos subPins.cmdOp subPins.cmdA subPins.cmdB
    omega

/-- The boundary: two edges of three have passed. -/
theorem witness_BusyBlockHoldsResponse :
    let s : State := { State.reset with opr := 0x20, a := 0x400000000, busy := true, wait := 3 }
    s.busy = true ∧ (∀ q ∈ [subPins, quietPins], q.rst = false) ∧ [subPins, quietPins].length < s.wait ∧
      s.rspValid = false := by decide

theorem witness_BackToBackAccept : ∃ (s : State) (p : Pins),
    Inv s ∧ s.rspValid = true ∧ p.rst = false ∧ p.cmdValid = true :=
  ⟨_, subPins, inv_after_response, rfl, rfl, rfl⟩

theorem witness_ErrorAndFlagTable : ∃ s t : State, completeLatched s = .next t ∧ t.err ≠ 0 :=
  ⟨State.reset, _, rfl, by decide⟩

theorem witness_ConversionLaws :
    (-(2 ^ 31) ≤ (0xFFFFFFFF80000000 : Word).toInt ∧ (0xFFFFFFFF80000000 : Word).toInt < 2 ^ 31) ∧
    (response (.cmp 1 2)).res.toInt ≤ 0 ∧ (response (.cmp 2 2)).res.toInt ≤ 0 := by decide

theorem witness_division_clauses : ((0 : Word) = 0) ∧ ((-1 : Word) ≠ 0) ∧
    ¬((BitVec.intMin 64 + 1 = BitVec.intMin 64) ∧ (-1 : Word) = -1) := by decide

theorem witness_FmodIsUnguarded : (BitVec.intMin 64 = BitVec.intMin 64 ∧ (-1 : Word) = -1) ∧
    ((-2 : Word) ≠ 0 ∧ ¬(BitVec.intMin 64 = BitVec.intMin 64 ∧ (-2 : Word) = -1)) := by decide

/-- The clauses of ModIsTruncatingRemainder on the result's sign. -/
theorem witness_mod_signs : (response (.mod (-7) 3)).res.toInt < 0 ∧ 0 < (response (.mod 7 (-3))).res.toInt := by decide

theorem witness_RoundHalfToEven : 0x7FFFFFFF80000000 ≤ (0x7FFFFFFF80000000 : Word).toInt ∧
    (0x7FFFFFFF7FFFFFFF : Word).toInt < 0x7FFFFFFF80000000 := by decide

/-- Each premise at a boundary: CEIL of the last operands it does not saturate on, with and without a fraction, the
least integral value, the neighbours of the two excluded ranges, and both signs. -/
theorem witness_RoundingLaws : (response (.ceil 0x7FFFFFFF00000000 0)).ovf = false ∧
    (response (.ceil 0x7FFFFFFEFFFFFFFF 0)).ovf = false ∧ (0x8000000000000000 : Word) &&& 0xFFFFFFFF = 0 ∧
    (0x8000000000000001 : Word) ≠ BitVec.intMin 64 ∧ |(0x7FFFFFFF7FFFFFFF : Word).toInt| < 0x7FFFFFFF80000000 ∧
    0 ≤ (0 : Word).toInt ∧ (-1 : Word).toInt < 0 := by decide

/-- The operands on which CEIL and ROUND saturate are no exception to their idempotence. -/
theorem test_saturated_rounding_idempotent : (response (.ceil 0x7FFFFFFFFFFFFFFF 0)).res = 0x7FFFFFFFFFFFFFFF ∧
    (response (.round 0x7FFFFFFFFFFFFFFF 0)).res = 0x7FFFFFFFFFFFFFFF := by decide

theorem witness_SqrtRoundsToNearest : (-1 : Word).toInt < 0 ∧ 0 ≤ (0 : Word).toInt := by decide

/-- Why SqrtRangeAndMonotone asks that MUL does not saturate (log entry 17). -/
theorem test_sqrt_of_saturated_square : response (.mul 0x1000000000000 0x1000000000000) = rsp 0x7FFFFFFFFFFFFFFF true 0 ∧
    (response (.sqrt 0x7FFFFFFFFFFFFFFF 0)).res ≠ 0x1000000000000 := by decide +kernel

theorem witness_SqrtRangeAndMonotone : (0 : Word).toInt ≤ (0x7FFFFFFFFFFFFFFF : Word).toInt ∧
    0 ≤ (0x300000000 : Word).toInt ∧ (0x300000000 : Word).toInt * (0x300000000 : Word).toInt % 2 ^ 32 = 0 ∧
    (response (.mul 0x300000000 0x300000000)).ovf = false := by decide

theorem witness_RestoringDivisionComputesDiv : (BitVec.intMin 64) ≠ 0 := by decide

/-- The last operand without the correction branch and the first with it. -/
theorem witness_DigitRootIsSqrtOrOneLess :
    (0 ≤ (0x40000000FFFFFFFF : Word).toInt ∧
      (0x40000000FFFFFFFF : Word).toNat < (0x40000000FFFFFFFF : Word).toNat.sqrt ^ 2 + 2 ^ 32) ∧
    (0 ≤ (0x4000000100000000 : Word).toInt ∧
      (0x4000000100000000 : Word).toNat.sqrt ^ 2 + 2 ^ 32 ≤ (0x4000000100000000 : Word).toNat) := by
  have h1 : Nat.sqrt 0x40000000FFFFFFFF = 2 ^ 31 := (Nat.eq_sqrt.mpr ⟨by norm_num, by norm_num⟩).symm
  have h2 : Nat.sqrt 0x4000000100000000 = 2 ^ 31 := (Nat.eq_sqrt.mpr ⟨by norm_num, by norm_num⟩).symm
  refine ⟨⟨by decide, ?_⟩, ⟨by decide, ?_⟩⟩
  · change 0x40000000FFFFFFFF < Nat.sqrt 0x40000000FFFFFFFF ^ 2 + 2 ^ 32
    rw [h1]
    norm_num
  · change Nat.sqrt 0x4000000100000000 ^ 2 + 2 ^ 32 ≤ 0x4000000100000000
    rw [h2]
    norm_num

theorem witness_SineReducerRanges : 0 ≤ (0 : Word).toInt ∧ (-1 : Word).toInt < 0 := by decide

theorem witness_InterpolatorIndicesInRange : (0 : Int) ≤ 0x1921FB544 ∧ (0x1921FB544 : Int) ≤ 0x1921FB544 := by decide

theorem witness_TableReadsAlwaysInRange :
    cosAngle (0 : Word).toInt ∈ [(0 : Word).toInt, cosAngle (0 : Word).toInt] := by decide

/-- A table that steps from 0 to `one` half way. -/
def stepLut : Lut := fun i => if i < 100000 then 0 else 0x100000000

theorem witness_SineStaysWithinOne : LutMonotone stepLut ∧
    ∀ i, InTable i → 0 ≤ (stepLut i).toInt ∧ (stepLut i).toInt ≤ 0x100000000 := by
  refine ⟨fun i j hij _ => ?_, fun i _ => ?_⟩
  · unfold stepLut
    split <;> split <;> first | omega | decide
  · unfold stepLut
    split <;> decide

theorem witness_TangentIsOdd : (stepLut 0).toInt = 0 ∧ (0x8000000000000001 : Word) ≠ BitVec.intMin 64 := by decide

theorem witness_AtanCompletesBoundedOdd : (0x8000000000000001 : Word) ≠ BitVec.intMin 64 := by decide

theorem witness_Atan2_clauses : ((0 : Word) = 0) ∧ ((1 : Word) ≠ 0) := by decide

theorem witness_AcosIsItsComposition :
    ((0xFFFFFFFEFFFFFFFF : Word).toInt < -0x100000000 ∨ 0x100000000 < (0xFFFFFFFEFFFFFFFF : Word).toInt) ∧
    ((0x100000001 : Word).toInt < -0x100000000 ∨ 0x100000000 < (0x100000001 : Word).toInt) ∧
    (-0x100000000 ≤ (0xFFFFFFFF00000000 : Word).toInt ∧ (0xFFFFFFFF00000000 : Word).toInt ≤ 0x100000000) ∧
    (-0x100000000 ≤ (0x100000000 : Word).toInt ∧ (0x100000000 : Word).toInt ≤ 0x100000000) := by decide

theorem witness_logarithm_clauses : (0 : Word).toInt ≤ 0 ∧ 0 < (1 : Word).toInt ∧
    (1 : Word).toInt ≤ (0x7FFFFFFFFFFFFFFF : Word).toInt ∧ (62 : Nat) ≤ 62 := by decide

theorem witness_Pow2SeriesTerminates : (0xFFFFFFFF : Word).toNat < 2 ^ 32 ∧ (0 : Word).toNat < 2 ^ 32 := by decide

theorem witness_Pow2RangeAndExactness : 0x1F00000000 ≤ (0x1F00000000 : Word).toInt ∧
    (0xFFFFFFE000000000 : Word).toInt ≤ -0x2000000000 ∧
    (-0x2000000000 < (0xFFFFFFE100000000 : Word).toInt ∧ (0xFFFFFFE100000000 : Word).toInt ≤ -0x1F00000000) ∧
    ((-31 : Int) ≤ -31 ∧ (30 : Int) ≤ 30) := by decide

end Sys2Proof.Tests
end

section
/-! The step, one equation per case, and what a command's completion depends on (spec/00_scope.md R15, R16,
spec/10_state.md R26, R32, spec/70_reset_and_hazards.md R235, R247, R249). -/

namespace Sys2Proof.Proofs

open Sys2Proof.Machine

/-! ### The words of the statements in the model's operations -/

/-- `answered` is the frame that the operation `respond` leaves. -/
theorem respond_eq_answered (r : Response) (s : State) : respond r s = answered s r.res r.ovf r.err := rfl

/-- `accepted` is acceptance after the host has gone on. -/
@[simp] theorem accept_withHost (p : Pins) (rest : List Pins) (s : State) :
    accept p (withHost rest s) = accepted s p rest := rfl

/-- `response` is the response that a command writes from every state, not only from reset. -/
theorem response_eq_of_exec {i : Instr} {r : Response} (h : ∀ s, exec i s = .next (respond r s)) :
    response i = r := by
  unfold response
  rw [h State.reset]
  exact responseOf_respond r State.reset

/-- Completion of a command: its response goes to the response registers, in every state. -/
theorem exec_eq_respond (i : Instr) (s : State) : exec i s = .next (respond (response i) s) := by
  obtain ⟨r, hr⟩ := exec_uniform i
  rw [response_eq_of_exec hr]
  exact hr s

/-! ### Decoding the latches -/

/-- Decoding a packed word is decoding its fields (R60). -/
@[simp] theorem decode_pack (op : Opcode) (a b : Word) :
    decode (CommandWord.pack op a b) = decodeFields op a b := by
  unfold decode
  rw [Laws.pack_opcode, Laws.pack_operandA, Laws.pack_operandB]

/-- The command in the latches completes with its meaning. -/
theorem completeLatched_of_decode {s : State} {i : Instr}
    (hi : decode (CommandWord.pack s.opr s.a s.b) = .ok i) : completeLatched s = exec i s := by
  rw [decode_pack] at hi
  unfold completeLatched
  rw [hi]

/-! ### The step, by what the block and the host do -/

/-- A busy block completes the command in its latches, unless the host drives `rst`. -/
theorem step_of_busy {s : State} (hb : s.busy = true) (hr : ∀ p, s.host.head? = some p → p.rst = false) :
    step s = completeLatched s := by
  unfold step hostStep
  cases hh : s.host with
  | nil => simp [hb]
  | cons p rest =>
    have hp : p.rst = false := hr p (by simp [hh])
    simp [hb, hp]

/-- A block that does not ignore the ports takes what the host drives next. -/
theorem step_of_takes {s : State} {p : Pins} {rest : List Pins} (hh : s.host = p :: rest)
    (ht : (s.busy && !p.rst) = false) : step s = takePins p (withHost rest s) := by
  simp [step, hostStep, hh, ht]

/-- `rst` comes first, busy or idle (R235). -/
theorem step_of_rst {s : State} {p : Pins} {rest : List Pins} (hh : s.host = p :: rest) (hr : p.rst = true) :
    step s = .next (resetRegisters (withHost rest s)) := by
  rw [step_of_takes hh (by simp [hr])]
  simp [takePins, hr]

/-- An idle block accepts a valid command and completes it in the same step (R26, R247). -/
theorem step_of_command {s : State} {p : Pins} {rest : List Pins} (hb : s.busy = false) (hh : s.host = p :: rest)
    (hr : p.rst = false) (hv : p.cmdValid = true) : step s = completeLatched (accepted s p rest) := by
  rw [step_of_takes hh (by simp [hb])]
  simp [takePins, hr, hv]

/-- An idle block without a valid command on its ports stays idle. -/
theorem step_of_no_command {s : State} {p : Pins} {rest : List Pins} (hb : s.busy = false)
    (hh : s.host = p :: rest) (hr : p.rst = false) (hv : p.cmdValid = false) :
    step s = .next (idle (withHost rest s)) := by
  rw [step_of_takes hh (by simp [hb])]
  simp [takePins, hr, hv]

/-- An idle block that the host drives nothing more to stays idle. -/
theorem step_of_host_nil {s : State} (hb : s.busy = false) (hh : s.host = []) : step s = .next (idle s) := by
  simp [step, hostStep, hh, hb]

/-! ### The statements -/

/-- Settles O9: `exec_uniform` gives one response for all states, and reset, where `response` reads it, is one of
them. -/
theorem responseDependsOnCommandAlone : Obligations.ResponseDependsOnCommandAlone := by
  intro i s
  rw [exec_eq_respond, respond_eq_answered]

/-- Settles O6: one equation of the step per clause, the first two with the decoding of the latches. -/
theorem stepRunsTheDecodedCommand : Obligations.StepRunsTheDecodedCommand := by
  refine ⟨?command, ?busy, ?reset, ?noCommand, ?hostNil⟩
  case command =>
    intro s p rest i hb hh hr hv hi
    have hlatched : completeLatched (accepted s p rest) = exec i (accepted s p rest) :=
      completeLatched_of_decode hi
    rw [step_of_command hb hh hr hv, hlatched]
  case busy =>
    intro s i hb hr hi
    rw [step_of_busy hb hr, completeLatched_of_decode hi]
  case reset =>
    intro s p rest hh hr
    exact step_of_rst hh hr
  case noCommand =>
    intro s p rest hb hh hr hv
    exact step_of_no_command hb hh hr hv
  case hostNil =>
    intro s hb hh
    exact step_of_host_nil hb hh

end Sys2Proof.Proofs
end

section
/-! Which errors a command's value can raise and when the flag is up (the table of spec/60_exceptions.md R233, from
the command rules). -/

namespace Sys2Proof.Proofs

open Sys2Proof.Machine

/-! ### Values that raise only certain errors -/

/-- If `x` raises an error, it is one of `es`. -/
def RaisesOnly {α : Type} (es : List Err) (x : Except Err α) : Prop := ∀ e, x = .error e → e ∈ es

theorem raisesOnly_ok {α : Type} (es : List Err) (v : α) : RaisesOnly es (.ok v) := by
  intro e he
  cases he

theorem raisesOnly_error {α : Type} {es : List Err} {e : Err} (h : e ∈ es) :
    RaisesOnly es (.error e : Except Err α) := by
  intro e' he
  cases he
  exact h

/-- A value that never raises raises only what is listed. -/
theorem RaisesOnly.of_nil {α : Type} {es : List Err} {x : Except Err α} (h : RaisesOnly [] x) : RaisesOnly es x :=
  fun e he => absurd (h e he) List.not_mem_nil

theorem RaisesOnly.bind {α β : Type} {es : List Err} {x : Except Err α} {f : α → Except Err β}
    (hx : RaisesOnly es x) (hf : ∀ v, x = .ok v → RaisesOnly es (f v)) : RaisesOnly es (x >>= f) := by
  cases x with
  | ok v => exact hf v rfl
  | error e => exact raisesOnly_error (hx e rfl)

theorem RaisesOnly.map {α β : Type} {es : List Err} {x : Except Err α} (f : α → β) (hx : RaisesOnly es x) :
    RaisesOnly es (x.map f) := by
  cases x with
  | ok v => exact raisesOnly_ok es _
  | error e => exact raisesOnly_error (hx e rfl)

theorem raisesOnly_div {y : Int} (x : Int) (h : y ≠ 0) : RaisesOnly [] (div x y) := by
  rw [div_of_ne h]
  exact raisesOnly_ok [] _

theorem raisesOnly_sqrt (x : Int) : RaisesOnly [.domain] (sqrt x) := by
  unfold sqrt
  split
  · exact raisesOnly_error (by decide)
  · exact raisesOnly_ok _ _

theorem raisesOnly_modValue (x y : Int) : RaisesOnly [.divzero] (modValue x y) := by
  unfold modValue
  split_ifs
  · exact raisesOnly_error (by decide)
  · exact raisesOnly_ok _ _
  · exact raisesOnly_ok _ _

theorem raisesOnly_fmodValue (x y : Int) : RaisesOnly [.divzero, .removf] (fmodValue x y) := by
  unfold fmodValue
  split_ifs
  · exact raisesOnly_error (by decide)
  · exact raisesOnly_error (by decide)
  · exact raisesOnly_ok _ _

/-! ### Signs under the saturating operators: why no series divides by zero -/

/-- Clamping keeps a lower bound that is itself in range. -/
theorem le_clamp {l t : Int} (hl : l ≤ maxValue) (h : l ≤ t) : l ≤ clamp t := by
  rcases clamp_cases t with ⟨-, e⟩ | ⟨ht, e⟩ | ⟨-, -, e⟩ <;> omega

theorem clamp_le {u t : Int} (hu : minValue ≤ u) (h : t ≤ u) : clamp t ≤ u := by
  rcases clamp_cases t with ⟨ht, e⟩ | ⟨-, e⟩ | ⟨-, -, e⟩ <;> omega

/-- A sum of a positive and a non-negative value is positive after clamping. -/
theorem add_pos_of_pos_of_nonneg {x y : Int} (hx : 0 < x) (hy : 0 ≤ y) : 0 < add x y :=
  le_clamp (l := 1) (by decide) (by omega)

theorem mulExact_nonneg {x y : Int} (h : 0 ≤ x * y) : 0 ≤ mulExact x y := Int.ediv_nonneg h (by decide)

theorem mul_nonneg_of_mul_nonneg {x y : Int} (h : 0 ≤ x * y) : 0 ≤ mul x y :=
  le_clamp (by decide) (mulExact_nonneg h)

theorem mul_nonpos_of_mul_nonpos {x y : Int} (h : x * y ≤ 0) : mul x y ≤ 0 :=
  clamp_le (by decide) (Int.ediv_nonpos_of_nonpos_of_neg h (by decide))

/-- A positive value times a literal of at least `one` stays positive. -/
theorem mul_pos_of_one_le {x y : Int} (hx : 0 < x) (hy : one ≤ y) : 0 < mul x y := by
  refine le_clamp (l := 1) (by decide) ?_
  have hxy : 1 * 2 ^ 32 ≤ x * y := by
    unfold one at hy
    nlinarith
  exact (Int.le_ediv_iff_mul_le (by decide)).mpr hxy

/-! ### ATAN, ATAN2 and ACOS -/

/-- The divisor of R177 starts positive and only grows. -/
theorem raisesOnly_atanLoop {zSq12 : Int} (hstep : 0 ≤ zSq12) (zSq2 : Int) (n : Nat)
    (dividend divisor term result : Int) (hdiv : 0 < divisor) :
    RaisesOnly [] (atanLoop zSq2 zSq12 n dividend divisor term result) := by
  induction n generalizing dividend divisor term result with
  | zero => exact raisesOnly_ok _ _
  | succ n ih =>
    refine (raisesOnly_div _ hdiv.ne').bind fun ratio _ => ?_
    dsimp only
    split
    · exact raisesOnly_ok _ _
    · exact ih _ _ _ _ (add_pos_of_pos_of_nonneg hdiv hstep)

theorem raisesOnly_atanSeries (z : Int) : RaisesOnly [] (atanSeries z) := by
  have hsq : 0 ≤ mul z z := mul_nonneg_of_mul_nonneg (mul_self_nonneg z)
  have hzp1 : 0 < add (mul z z) one := by
    refine le_clamp (l := 1) (by decide) ?_
    unfold one
    omega
  have hstep : 0 ≤ mul (add (mul z z) one) two := (mul_pos_of_one_le hzp1 (by decide)).le
  have hdivisor : 0 < mul (add (mul z z) one) three := mul_pos_of_one_le hzp1 (by decide)
  exact (raisesOnly_atanLoop hstep _ _ _ _ _ _ hdivisor).bind fun _ _ => raisesOnly_div _ hzp1.ne'

theorem raisesOnly_atanPositive (z : Int) : RaisesOnly [] (atanPositive z) := by
  unfold atanPositive
  split
  · rename_i hz
    have hne : z ≠ 0 := by
      unfold one at hz
      omega
    exact (raisesOnly_div _ hne).bind fun w _ =>
      (raisesOnly_atanSeries w).bind fun _ _ => raisesOnly_ok _ _
  · exact raisesOnly_atanSeries z

theorem raisesOnly_atanValue (x : Int) : RaisesOnly [] (atanValue x) := by
  unfold atanValue
  split_ifs
  · exact raisesOnly_ok _ _
  · exact (raisesOnly_atanPositive _).map neg
  · exact raisesOnly_atanPositive x

/-- The denominator of R183 is positive: `mul c028 z` has the sign of `z`. -/
theorem atan2Denominator_pos (z : Int) : 0 < atan2Denominator z := by
  have hsq : 0 ≤ mul c028 z * z := by
    rcases le_total 0 z with hz | hz
    · exact mul_nonneg (mul_nonneg_of_mul_nonneg (mul_nonneg (by decide) hz)) hz
    · exact mul_nonneg_of_nonpos_of_nonpos
        (mul_nonpos_of_mul_nonpos (mul_nonpos_of_nonneg_of_nonpos (by decide) hz)) hz
  exact add_pos_of_pos_of_nonneg (by decide) (mul_nonneg_of_mul_nonneg hsq)

theorem raisesOnly_atan2Quotient (y x z : Int) : RaisesOnly [] (atan2Quotient y x z) := by
  have hsquare : 0 < add (mul z z) c028 := by
    have := mul_nonneg_of_mul_nonneg (mul_self_nonneg z)
    refine le_clamp (l := 1) (by decide) ?_
    unfold c028
    omega
  unfold atan2Quotient
  split
  · exact raisesOnly_ok _ _
  · split
    · exact (raisesOnly_div z (atan2Denominator_pos z).ne').bind fun _ _ => raisesOnly_ok _ _
    · exact (raisesOnly_div z hsquare.ne').bind fun _ _ => raisesOnly_ok _ _

theorem raisesOnly_atan2Value (y x : Int) : RaisesOnly [] (atan2Value y x) := by
  unfold atan2Value
  split
  · exact raisesOnly_ok _ _
  · rename_i hx
    exact (raisesOnly_div _ hx).bind fun z _ => raisesOnly_atan2Quotient y x z

theorem raisesOnly_acosValue (x : Int) : RaisesOnly [.domain] (acosValue x) := by
  unfold acosValue
  split
  · exact raisesOnly_error (by decide)
  · split
    · exact raisesOnly_ok _ _
    · rename_i hx
      exact (raisesOnly_sqrt _).bind fun root _ =>
        (raisesOnly_div root hx).of_nil.bind fun ratio _ =>
          (raisesOnly_atanValue ratio).of_nil.bind fun _ _ => raisesOnly_ok _ _

/-! ### LOG2, LN, POW2 and POW -/

theorem raisesOnly_log2Value (x : Int) : RaisesOnly [.domain] (log2Value x) := by
  unfold log2Value
  split
  · exact raisesOnly_error (by decide)
  · exact raisesOnly_ok _ _

theorem raisesOnly_lnValue (x : Int) : RaisesOnly [.domain] (lnValue x) := (raisesOnly_log2Value x).map _

/-- A fast product of non-negative values keeps its value when the exact one is in range. -/
theorem fmul_of_range {x y : Int} (h0 : 0 ≤ mulExact x y) (h1 : mulExact x y < 2 ^ 63) : fmul x y = mulExact x y :=
  wrap_of_range (by omega) h1

/-- Rounding a non-negative quotient by a positive integer does not exceed the dividend. -/
theorem div_fromInt_le {x : Int} (h0 : 0 ≤ x) (h1 : x < 2 ^ 63) {i : Nat} (hi : 1 ≤ i) :
    ∃ v, div x (fromInt i) = .ok v ∧ 0 ≤ v ∧ v ≤ x := by
  have hy : 2 ^ 32 ≤ fromInt i := by
    unfold fromInt
    omega
  have hexact : divExact x (fromInt i) = (2 * x * 2 ^ 32 + fromInt i) / (2 * fromInt i) := by
    simp [divExact, divMagnitude, floorDiv, magnitude, abs_of_nonneg h0, abs_of_nonneg (show 0 ≤ fromInt i by omega),
      not_lt.mpr h0, show ¬ fromInt i < 0 by omega]
  have hnonneg : 0 ≤ divExact x (fromInt i) := by
    rw [hexact]
    exact Int.ediv_nonneg (by omega) (by omega)
  have hle : divExact x (fromInt i) ≤ x := by
    rw [hexact]
    refine Int.lt_add_one_iff.mp (Int.ediv_lt_of_lt_mul (by omega) ?_)
    nlinarith
  exact ⟨_, by rw [div_of_ne (by omega), clamp_of_range (by omega) (by omega)], hnonneg, hle⟩

/-- What a pass of R195 keeps: each term is at most 7/10 of the one before (`ln2` is below 0.7), so that the sum
stays below `10/3`. -/
structure SeriesBounded (v : SeriesState) : Prop where
  term_nonneg : 0 ≤ v.term
  one_le_result : one ≤ v.result
  weight_le : 3 * v.result + 7 * v.term ≤ 10 * one

/-- One pass of R195: the next term, below 7/10 of the present one. -/
theorem next_pow2_term {f t : Int} (hf0 : 0 ≤ f) (hf1 : f < 2 ^ 32) (ht0 : 0 ≤ t) (ht1 : t < 2 ^ 34) {i : Nat}
    (hi : 1 ≤ i) : ∃ t', div (fmul (fmul f t) ln2) (fromInt i) = .ok t' ∧ 0 ≤ t' ∧ 10 * t' ≤ 7 * t := by
  have hft0 : 0 ≤ mulExact f t := mulExact_nonneg (mul_nonneg hf0 ht0)
  have hft1 : mulExact f t ≤ t :=
    Int.ediv_le_of_le_mul (by decide) (by nlinarith)
  have hfmul : fmul f t = mulExact f t := fmul_of_range hft0 (by omega)
  have hln0 : 0 ≤ mulExact (mulExact f t) ln2 := mulExact_nonneg (mul_nonneg hft0 (by decide))
  have hln1 : 10 * mulExact (mulExact f t) ln2 ≤ 7 * t := by
    generalize mulExact f t = u at hft0 hft1
    unfold mulExact floorDiv ln2
    omega
  obtain ⟨v, hv, hv0, hv1⟩ := div_fromInt_le (x := mulExact (mulExact f t) ln2) hln0 (by omega) hi
  rw [hfmul, fmul_of_range hln0 (by omega)]
  exact ⟨v, hv, hv0, by omega⟩

/-- The loop of R195 raises nothing and keeps its bounds. -/
theorem pow2Loop_bounded {f : Int} (hf0 : 0 ≤ f) (hf1 : f < 2 ^ 32) (n i : Nat) (v : SeriesState) (hi : 1 ≤ i)
    (hv : SeriesBounded v) : ∃ w, pow2Loop f n i v = .ok w ∧ SeriesBounded w := by
  induction n generalizing i v with
  | zero => exact ⟨v, rfl, hv⟩
  | succ n ih =>
    obtain ⟨hterm, hresult, hweight⟩ := hv
    unfold pow2Loop
    split
    · exact ⟨v, rfl, hterm, hresult, hweight⟩
    · unfold one at hresult hweight
      obtain ⟨t', ht', ht0, ht1⟩ := next_pow2_term hf0 hf1 hterm (by omega) hi
      have hsum : add v.result t' = v.result + t' := clamp_of_range (by omega) (by omega)
      have hnext : SeriesBounded { term := t', result := add v.result t' } := by
        rw [hsum]
        exact ⟨ht0, by unfold one; dsimp only; omega, by unfold one; dsimp only; omega⟩
      rw [ht']
      exact ih (i + 1) _ (by omega) hnext

/-- No multiple of `2^64` lies strictly between 0 and `2^64`. -/
theorem wrap_ne_zero {t : Int} (h0 : 0 < t) (h1 : t < 2 ^ 64) : wrap t ≠ 0 := by
  intro h
  have hmod : t.bmod (2 ^ 64) = 0 := by
    simpa [wrap, wordOf] using h
  have hdvd : (2 ^ 64 : Int) ∣ t := by simpa using Int.dvd_of_bmod_eq_zero hmod
  exact absurd (Int.le_of_dvd h0 hdvd) (by omega)

/-- The series of R195 shifted by at most 30 places loses bits at the top, but not all. -/
theorem pow2Series_ne_zero {m : Int} (h0 : 0 ≤ m) (h1 : m < log2Max) :
    ∃ v, pow2Series m = .ok v ∧ v ≠ 0 := by
  obtain ⟨w, hw, hterm, hone, hweight⟩ := pow2Loop_bounded (frac_range m).1 (frac_range m).2 pow2Passes 1
    { term := one, result := one } le_rfl ⟨by decide, le_rfl, by decide⟩
  unfold one at hone hweight
  have hshift : (2 : Int) ^ (floorDiv m (2 ^ 32)).toNat ≤ 2 ^ 30 := by
    refine pow_le_pow_right₀ (by decide) ?_
    unfold floorDiv
    unfold log2Max at h1
    omega
  have hpos : (0 : Int) < 2 ^ (floorDiv m (2 ^ 32)).toNat := by positivity
  refine ⟨_, by rw [pow2Series, hw]; rfl, wrap_ne_zero (mul_pos (by omega) hpos) ?_⟩
  calc w.result * 2 ^ (floorDiv m (2 ^ 32)).toNat ≤ w.result * 2 ^ 30 :=
        mul_le_mul_of_nonneg_left hshift (by omega)
    _ < 2 ^ 64 := by omega

/-- POW2 raises nothing: its reciprocals are those of `maxValue`, of 2.0 and of a series that is not 0. -/
theorem raisesOnly_pow2Value (x : Int) : RaisesOnly [] (pow2Value x) := by
  unfold pow2Value
  split
  · exact raisesOnly_ok _ _
  split
  · exact raisesOnly_ok _ _
  split
  · exact raisesOnly_ok _ _
  split
  · exact raisesOnly_div one (by decide)
  split
  · split
    · exact raisesOnly_div one (by decide)
    · exact raisesOnly_ok _ _
  · rename_i hmag _
    obtain ⟨r, hr, hne⟩ := pow2Series_ne_zero (m := magnitude x) (by unfold magnitude; omega) (by omega)
    rw [hr]
    show RaisesOnly [] (if x < 0 then div one r else .ok r)
    split
    · exact raisesOnly_div one hne
    · exact raisesOnly_ok _ _

theorem raisesOnly_powValue (bs ex : Int) : RaisesOnly [.divzero, .domain] (powValue bs ex) := by
  unfold powValue
  split
  · exact raisesOnly_ok _ _
  split
  · exact raisesOnly_ok _ _
  split
  · split
    · exact raisesOnly_error (by decide)
    · exact raisesOnly_ok _ _
  · refine RaisesOnly.bind ?_ fun l _ => (raisesOnly_pow2Value _).of_nil
    exact fun e he => List.mem_cons_of_mem _ (raisesOnly_log2Value bs e he)

/-! ### Values that carry the flag -/

/-- The flag of `v` is up only where its value is a limit (R25). -/
def FlagOnlyAtLimit (v : Flagged) : Prop := v.ovf = true → v.value = maxValue ∨ v.value = minValue

theorem flagOnlyAtLimit_unflagged (v : Int) : FlagOnlyAtLimit (unflagged v) := fun h => by cases h

theorem flagOnlyAtLimit_sat (t : Int) : FlagOnlyAtLimit (sat t) := by
  intro h
  have hne : clamp t ≠ t := by simpa using h
  rcases clamp_cases t with ⟨-, e⟩ | ⟨-, e⟩ | ⟨-, -, e⟩
  · exact .inl e
  · exact .inr e
  · exact absurd e hne

theorem flagOnlyAtLimit_satNeg (x : Int) : FlagOnlyAtLimit (satNeg x) := by
  intro h
  have hx : x = minValue := of_decide_eq_true h
  exact .inl (if_pos hx)

theorem flagOnlyAtLimit_satAbs (x : Int) : FlagOnlyAtLimit (satAbs x) := by
  intro h
  have hx : x = minValue := of_decide_eq_true h
  exact .inl (if_pos hx)

theorem flagOnlyAtLimit_satCeil (x : Int) : FlagOnlyAtLimit (satCeil x) := by
  unfold satCeil
  split
  · exact flagOnlyAtLimit_unflagged x
  · exact flagOnlyAtLimit_sat _

/-! ### The table of R233 -/

/-- The errors each command can raise: the error columns of the table of R233. -/
def raisedErrors : Mnemonic → List Err
  | .div | .mod => [.divzero]
  | .fmod => [.divzero, .removf]
  | .sqrt | .acos | .log2 | .ln => [.domain]
  | .pow => [.divzero, .domain]
  | _ => []

/-- The codes of the statement's table are NONE and those of the errors the command raises. -/
theorem errCodesOf_opcode (m : Mnemonic) : errCodesOf m.opcode = 0 :: (raisedErrors m).map errCode := by
  cases m <;> rfl

theorem errCodesOf_reserved : ∀ op : Opcode, mnemonicOf op = none → errCodesOf op = [3] := by decide

theorem flagOpcodes_assigned : ∀ op ∈ flagOpcodes, mnemonicOf op ≠ none := by decide

/-- The responses the table of R233 admits for a command: a value without the flag, a value that may carry it at a
limit, and the empty response of a listed error. -/
inductive Admissible (m : Mnemonic) : Response → Prop where
  | value (v : Int) : Admissible m (okResponse (unflagged v))
  | flagged (v : Flagged) (hm : m.opcode ∈ flagOpcodes) (hv : FlagOnlyAtLimit v) : Admissible m (okResponse v)
  | error (e : Err) (he : e ∈ raisedErrors m) : Admissible m (errResponse e)

theorem admissible_of_unflagged {m : Mnemonic} {a b : Word} {v : Int}
    (h : ∀ s, exec (m.instr a b) s = completeOk (unflagged v) s) : Admissible m (response (m.instr a b)) := by
  rw [response_eq_of_exec h]
  exact .value v

theorem admissible_of_flagged {m : Mnemonic} {a b : Word} {v : Flagged}
    (h : ∀ s, exec (m.instr a b) s = completeOk v s) (hm : m.opcode ∈ flagOpcodes) (hv : FlagOnlyAtLimit v) :
    Admissible m (response (m.instr a b)) := by
  rw [response_eq_of_exec h]
  exact .flagged v hm hv

theorem admissible_of_value {m : Mnemonic} {a b : Word} {x : Except Err Int}
    (h : ∀ s, exec (m.instr a b) s = completeValue x s) (hx : RaisesOnly (raisedErrors m) x) :
    Admissible m (response (m.instr a b)) := by
  cases x with
  | ok v => exact admissible_of_unflagged h
  | error e =>
    rw [response_eq_of_exec h]
    exact .error e (hx e rfl)

/-- DIV is the one command that both raises and flags (R94). -/
theorem admissible_div (a b : Word) : Admissible .div (response (Mnemonic.div.instr a b)) := by
  have h : ∀ s, exec (Mnemonic.div.instr a b) s = complete (satDiv (raw a) (raw b)) s := fun _ => rfl
  unfold satDiv at h
  split at h <;> rw [response_eq_of_exec h]
  · exact .error .divzero (by decide)
  · exact .flagged _ (by decide) (flagOnlyAtLimit_sat _)

/-- Every command answers what the table of R233 admits. -/
theorem response_admissible (m : Mnemonic) (a b : Word) : Admissible m (response (m.instr a b)) := by
  cases m with
  | fromint | toint | cmp | fadd | fsub | fmul | floor | trunc | sign | fabs | sin | cos | tan | fsin | fcos =>
    exact admissible_of_unflagged fun _ => rfl
  | add | sub | mul | inc | dec | round =>
    exact admissible_of_flagged (fun _ => rfl) (by decide) (flagOnlyAtLimit_sat _)
  | neg => exact admissible_of_flagged (fun _ => rfl) (by decide) (flagOnlyAtLimit_satNeg _)
  | abs => exact admissible_of_flagged (fun _ => rfl) (by decide) (flagOnlyAtLimit_satAbs _)
  | ceil => exact admissible_of_flagged (fun _ => rfl) (by decide) (flagOnlyAtLimit_satCeil _)
  | div => exact admissible_div a b
  | mod => exact admissible_of_value (fun _ => rfl) (raisesOnly_modValue _ _)
  | fmod => exact admissible_of_value (fun _ => rfl) (raisesOnly_fmodValue _ _)
  | sqrt => exact admissible_of_value (fun _ => rfl) (raisesOnly_sqrt _)
  | atan => exact admissible_of_value (fun _ => rfl) (raisesOnly_atanValue _)
  | atan2 => exact admissible_of_value (fun _ => rfl) (raisesOnly_atan2Value _ _)
  | acos => exact admissible_of_value (fun _ => rfl) (raisesOnly_acosValue _)
  | log2 => exact admissible_of_value (fun _ => rfl) (raisesOnly_log2Value _)
  | ln => exact admissible_of_value (fun _ => rfl) (raisesOnly_lnValue _)
  | pow2 => exact admissible_of_value (fun _ => rfl) (raisesOnly_pow2Value _)
  | pow => exact admissible_of_value (fun _ => rfl) (raisesOnly_powValue _ _)

theorem Admissible.err_mem {m : Mnemonic} {r : Response} (h : Admissible m r) : r.err ∈ errCodesOf m.opcode := by
  rw [errCodesOf_opcode]
  cases h with
  | value v => exact List.mem_cons_self
  | flagged v hm hv => exact List.mem_cons_self
  | error e he => exact List.mem_cons_of_mem _ (List.mem_map_of_mem he)

theorem Admissible.opcode_mem_of_ovf {m : Mnemonic} {r : Response} (h : Admissible m r) (ho : r.ovf = true) :
    m.opcode ∈ flagOpcodes := by
  cases h with
  | value v => cases ho
  | flagged v hm hv => exact hm
  | error e he => cases ho

/-! ### Every entry of the table is reached -/

/-- A command that raises nothing answers with NONE. -/
theorem err_of_raises_nothing {m : Mnemonic} (h : raisedErrors m = []) (a b : Word) :
    (response (m.instr a b)).err = 0 := by
  have hmem := (response_admissible m a b).err_mem
  rw [errCodesOf_opcode, h] at hmem
  simpa using hmem

/-- Every command succeeds on the operands 1.0 and 1.0. -/
theorem err_at_one (m : Mnemonic) : (response (m.instr 0x100000000 0x100000000)).err = 0 := by
  cases m with
  | div | mod | fmod | sqrt | acos | log2 | ln | pow => rfl
  | _ => exact err_of_raises_nothing rfl _ _

/-- Operands that raise each listed error: a zero divisor, `MinValue` by -1 raw, and values outside the domain. -/
theorem exists_operands_of_raisedErrors {m : Mnemonic} {e : Err} (he : e ∈ raisedErrors m) :
    ∃ a b, response (m.instr a b) = errResponse e := by
  cases m with
  | div | mod =>
    obtain rfl : e = .divzero := by simpa [raisedErrors] using he
    exact ⟨1, 0, rfl⟩
  | fmod =>
    obtain rfl | rfl : e = .divzero ∨ e = .removf := by simpa [raisedErrors] using he
    · exact ⟨1, 0, rfl⟩
    · exact ⟨BitVec.intMin 64, -1, rfl⟩
  | sqrt | log2 | ln =>
    obtain rfl : e = .domain := by simpa [raisedErrors] using he
    exact ⟨-1, 0, rfl⟩
  | acos =>
    obtain rfl : e = .domain := by simpa [raisedErrors] using he
    exact ⟨0x200000000, 0, rfl⟩
  | pow =>
    obtain rfl | rfl : e = .divzero ∨ e = .domain := by simpa [raisedErrors] using he
    · exact ⟨0, -1, rfl⟩
    · exact ⟨-1, 1, rfl⟩
  | _ => simp [raisedErrors] at he

/-- Operands that raise the flag of each listed command. -/
theorem exists_operands_of_mem_flagOpcodes {m : Mnemonic} (hm : m.opcode ∈ flagOpcodes) :
    ∃ a b, (response (m.instr a b)).ovf = true := by
  cases m with
  | add | mul | inc | ceil | round => exact ⟨BitVec.intMax 64, BitVec.intMax 64, rfl⟩
  | sub | dec | neg | abs => exact ⟨BitVec.intMin 64, BitVec.intMax 64, rfl⟩
  | div => exact ⟨BitVec.intMax 64, 1, rfl⟩
  | _ => exact absurd hm (by decide)

end Sys2Proof.Proofs
end

section
/-! From the word on the ports to the completion: the fields of a decoded command, the response of the latches, and
the timed machine as equations (spec/10_state.md R26, R32, spec/30_encoding.md R60, R64, R67,
spec/70_reset_and_hazards.md R245 to R247). -/

namespace Sys2Proof.Proofs

open Sys2Proof.Machine

/-! ### Mnemonics, opcodes and the fields of a command -/

@[simp] theorem mnemonic_instr (m : Mnemonic) (a b : Word) : (m.instr a b).mnemonic = m := by cases m <;> rfl

@[simp] theorem operandA_instr (m : Mnemonic) (a b : Word) : (m.instr a b).operandA = a := by cases m <;> rfl

@[simp] theorem operandB_instr (m : Mnemonic) (a b : Word) : (m.instr a b).operandB = b := by cases m <;> rfl

@[simp] theorem mnemonicOf_opcode (m : Mnemonic) : mnemonicOf m.opcode = some m := by cases m <;> rfl

/-- The opcode map of R64 read backwards. -/
theorem opcode_of_mnemonicOf : ∀ {op : Opcode} {m : Mnemonic}, mnemonicOf op = some m → m.opcode = op := by
  have h : ∀ op : Opcode, ∀ m ∈ mnemonicOf op, m.opcode = op := by decide
  exact fun {op m} hm => h op m hm

theorem decodeFields_of_mnemonicOf {op : Opcode} {m : Mnemonic} (h : mnemonicOf op = some m) (a b : Word) :
    decodeFields op a b = .ok (m.instr a b) := by
  unfold decodeFields
  rw [h]

theorem decodeFields_of_reserved {op : Opcode} (h : mnemonicOf op = none) (a b : Word) :
    decodeFields op a b = .error (.reservedOpcode op) := by
  unfold decodeFields
  rw [h]

/-- A decoded command has the fields it was decoded from. -/
theorem fields_of_decodeFields {op : Opcode} {a b : Word} {i : Instr} (h : decodeFields op a b = .ok i) :
    i.mnemonic.opcode = op ∧ i.operandA = a ∧ i.operandB = b := by
  cases hm : mnemonicOf op with
  | none => rw [decodeFields_of_reserved hm] at h; cases h
  | some m =>
    rw [decodeFields_of_mnemonicOf hm] at h
    cases h
    simp [opcode_of_mnemonicOf hm]

/-- A table word that decodes is a command word that decodes. -/
theorem tableCommandWord_of_decodeTableWord {nbits w : Nat} {i : Instr} (h : decodeTableWord nbits w = some i) :
    ∃ cw, tableCommandWord nbits w = some cw ∧ decode cw = .ok i := by
  unfold decodeTableWord at h
  cases hcw : tableCommandWord nbits w with
  | none => simp [hcw] at h
  | some cw =>
    refine ⟨cw, rfl, ?_⟩
    cases hd : decode cw with
    | ok j => simp_all
    | error e => simp [hcw, hd] at h

/-- The ports that present a command word present the fields of the command it decodes to. -/
theorem commandPins_of_decode {cw : CommandWord} {i : Instr} (h : decode cw = .ok i) :
    commandPins cw = { rst := false, cmdValid := true, cmdOp := i.mnemonic.opcode, cmdA := i.operandA,
                       cmdB := i.operandB } := by
  obtain ⟨hop, ha, hb⟩ := fields_of_decodeFields h
  rw [commandPins, hop, ha, hb]

/-- Presenting a command word makes the block ready and puts the word first on the ports (log entry 2). -/
theorem withFetchWord_of_tableCommandWord {nbits w : Nat} {cw : CommandWord}
    (h : tableCommandWord nbits w = some cw) (s : State) :
    s.withFetchWord nbits w = { s with busy := false, wait := 0, host := commandPins cw :: s.host } := by
  simp [State.withFetchWord, presentWord, h]

/-- A placed command word, once accepted, completes with the meaning of the command it decodes to. -/
theorem completeLatched_accepted_commandPins {cw : CommandWord} {i : Instr} (hd : decode cw = .ok i) (s : State)
    (rest : List Pins) :
    completeLatched (accepted s (commandPins cw) rest) = exec i (accepted s (commandPins cw) rest) :=
  completeLatched_of_decode ((decode_pack _ _ _).trans hd)

/-- Settles O7: the placed word is accepted by `step_of_command`, with the fields it was decoded from. -/
theorem placedCommandRunsNext : Obligations.PlacedCommandRunsNext := by
  intro s nbits w i h
  obtain ⟨cw, hcw, hd⟩ := tableCommandWord_of_decodeTableWord h
  have hstep : step (s.withFetchWord nbits w) =
      completeLatched (accepted { s with busy := false, wait := 0 } (commandPins cw) s.host) := by
    rw [withFetchWord_of_tableCommandWord hcw]
    exact step_of_command (s := { s with busy := false, wait := 0, host := commandPins cw :: s.host }) rfl rfl rfl rfl
  rw [hstep, completeLatched_accepted_commandPins hd, commandPins_of_decode hd]

/-! ### The response of the latches -/

/-- The response of the command a latch content names (R32, R67, R213). -/
def latchedResponse (op : Opcode) (a b : Word) : Response :=
  match mnemonicOf op with
  | some m => response (m.instr a b)
  | none => errResponse .illop

@[simp] theorem latchedResponse_opcode (m : Mnemonic) (a b : Word) :
    latchedResponse m.opcode a b = response (m.instr a b) := by
  simp [latchedResponse]

theorem latchedResponse_of_reserved {op : Opcode} (h : mnemonicOf op = none) (a b : Word) :
    latchedResponse op a b = errResponse .illop := by
  simp [latchedResponse, h]

/-- Completing the latched command writes the latches' response, and nothing else decides what is written. -/
theorem completeLatched_eq (s : State) :
    completeLatched s = .next (respond (latchedResponse s.opr s.a s.b) s) := by
  unfold completeLatched
  cases hm : mnemonicOf s.opr with
  | some m =>
    rw [decodeFields_of_mnemonicOf hm, ← opcode_of_mnemonicOf hm, latchedResponse_opcode]
    exact exec_eq_respond _ s
  | none =>
    rw [decodeFields_of_reserved hm, latchedResponse_of_reserved hm]
    rfl

/-! ### The clock edge, by what the block and the host do -/

/-- An edge of a busy block goes on with the command in flight, whatever command the host presents (R26). -/
theorem clockEdge_of_busy {p : Pins} {s : State} (hr : p.rst = false) (hb : s.busy = true) :
    clockEdge p s = busyEdge (idle s) := by
  simp [clockEdge, hr, hb]

/-- An edge of an idle block accepts a valid command and counts as the first of its latency (R26, R246). -/
theorem clockEdge_of_command {p : Pins} {s : State} (hr : p.rst = false) (hb : s.busy = false)
    (hv : p.cmdValid = true) : clockEdge p s = busyEdge (accept p s) := by
  simp [clockEdge, hr, hb, hv]

/-- Before the last edge of the latency only the count moves. -/
theorem busyEdge_of_two_le {s : State} (h : 2 ≤ s.wait) : busyEdge s = .next { s with wait := s.wait - 1 } := by
  simp [busyEdge, show ¬ s.wait ≤ 1 by omega]

/-- The last edge of the latency completes the command. -/
theorem busyEdge_of_le_one {s : State} (h : s.wait ≤ 1) :
    busyEdge s = .next (respond (latchedResponse s.opr s.a s.b) s) := by
  simp [busyEdge, h, completeLatched_eq]

theorem clockEdges_cons {p : Pins} {s t : State} (h : clockEdge p s = .next t) (ps : List Pins) :
    clockEdges (p :: ps) s = clockEdges ps t := by
  simp [clockEdges, h]

theorem idle_of_no_pulse {s : State} (h : s.rspValid = false) : idle s = s := by
  rw [idle, ← h]

/-- Edges that do not use up the latency only move the count. -/
theorem clockEdges_of_lt_wait (ps : List Pins) (s : State) (hb : s.busy = true) (hr : ∀ q ∈ ps, q.rst = false)
    (hw : ps.length < s.wait) (hp : s.rspValid = false) :
    clockEdges ps s = .next { s with wait := s.wait - ps.length } := by
  induction ps generalizing s with
  | nil => rfl
  | cons q qs ih =>
    rw [List.length_cons] at hw
    have hedge : clockEdge q s = .next { s with wait := s.wait - 1 } := by
      rw [clockEdge_of_busy (hr q List.mem_cons_self) hb, idle_of_no_pulse hp, busyEdge_of_two_le (by omega)]
    have hrest := ih { s with wait := s.wait - 1 } hb (fun q' hq' => hr q' (List.mem_cons_of_mem q hq'))
      (by dsimp only; omega) hp
    rw [clockEdges_cons hedge, hrest]
    simp [Nat.sub_sub, Nat.add_comm]

/-- The edges still to come complete the command in flight. -/
theorem clockEdges_of_eq_wait (ps : List Pins) (s : State) (hb : s.busy = true) (hr : ∀ q ∈ ps, q.rst = false)
    (hw : ps.length = s.wait) (hpos : 1 ≤ s.wait) :
    clockEdges ps s = .next (respond (latchedResponse s.opr s.a s.b) s) := by
  induction ps generalizing s with
  | nil => simp at hw; omega
  | cons q qs ih =>
    rw [List.length_cons] at hw
    have hedge := clockEdge_of_busy (hr q List.mem_cons_self) hb
    by_cases hlast : s.wait ≤ 1
    · obtain rfl : qs = [] := List.eq_nil_of_length_eq_zero (by omega)
      rw [busyEdge_of_le_one (s := idle s) hlast] at hedge
      exact clockEdges_cons hedge []
    · rw [busyEdge_of_two_le (s := idle s) (by simp; omega)] at hedge
      rw [clockEdges_cons hedge, ih]
      · rfl
      · exact hb
      · exact fun q' hq' => hr q' (List.mem_cons_of_mem q hq')
      · simp; omega
      · simp; omega

/-- Settles O17, with `clockEdges_of_lt_wait`. -/
theorem busyBlockHoldsResponse : Obligations.BusyBlockHoldsResponse := by
  intro s ps hb hr hw hp
  refine ⟨clockEdges_of_lt_wait ps s hb hr hw hp, ?_⟩
  simp [cmdReady, hb]

/-- From acceptance to completion: the latency's edges answer as one completion of the accepted command. -/
theorem clockEdges_of_command {s : State} {p : Pins} {ps : List Pins} (hb : s.busy = false) (hr : p.rst = false)
    (hv : p.cmdValid = true) (hrs : ∀ q ∈ ps, q.rst = false)
    (hlat : ps.length + 1 = latency p.cmdOp p.cmdA p.cmdB) :
    clockEdges (p :: ps) s = .next (respond (latchedResponse p.cmdOp p.cmdA p.cmdB) (accept p s)) := by
  have hedge := clockEdge_of_command hr hb hv
  cases ps with
  | nil =>
    rw [busyEdge_of_le_one (by simpa using hlat.ge)] at hedge
    exact clockEdges_cons hedge []
  | cons q qs =>
    rw [List.length_cons] at hlat
    rw [busyEdge_of_two_le (by simp; omega)] at hedge
    rw [clockEdges_cons hedge, clockEdges_of_eq_wait]
    · rfl
    · rfl
    · exact hrs
    · simp; omega
    · simp; omega

/-- Settles O16: both machines complete the accepted command, the step at once and the edges at the end of the
latency. -/
theorem timedMachineRefinesStep : Obligations.TimedMachineRefinesStep := by
  refine ⟨?_, max 1 Config.latMax, fun op a b => ⟨latency_pos op a b, latency_le op a b⟩⟩
  intro s p ps hb hr hv hrs hlat
  refine ⟨_, ?_, clockEdges_of_command hb hr hv hrs hlat, rfl⟩
  have hstep := step_of_command (s := { s with host := p :: s.host }) hb rfl hr hv
  rw [hstep, completeLatched_eq]
  rfl

end Sys2Proof.Proofs
end

section
/-! What a run keeps: every response is sound, so every completion establishes the invariant
(spec/10_state.md R25, R31, spec/60_exceptions.md R210, R214, R233, spec/70_reset_and_hazards.md R235, R245, R249). -/

namespace Sys2Proof.Proofs

open Sys2Proof.Machine

/-! ### The responses of the latches -/

/-- What R210, R214 and R25 ask of the fields of a response. -/
structure ResponseSound (r : Response) : Prop where
  errLegal : r.err.toNat ≤ 4
  errorEmpty : r.err ≠ 0 → r.res = 0 ∧ r.ovf = false
  flagClamped : r.ovf = true → r.res = wordOf maxValue ∨ r.res = wordOf minValue

theorem okResponse_sound {v : Flagged} (hv : FlagOnlyAtLimit v) : ResponseSound (okResponse v) where
  errLegal := by simp
  errorEmpty h := absurd (okResponse_err v) h
  flagClamped h := (hv h).imp (congrArg wordOf) (congrArg wordOf)

theorem errResponse_sound (e : Err) : ResponseSound (errResponse e) where
  errLegal := errCode_le_four e
  errorEmpty _ := ⟨errResponse_res e, errResponse_ovf e⟩
  flagClamped h := by simp at h

theorem Admissible.sound {m : Mnemonic} {r : Response} (h : Admissible m r) : ResponseSound r := by
  cases h with
  | value v => exact okResponse_sound (flagOnlyAtLimit_unflagged v)
  | flagged v hm hv => exact okResponse_sound hv
  | error e he => exact errResponse_sound e

theorem latchedResponse_sound (op : Opcode) (a b : Word) : ResponseSound (latchedResponse op a b) := by
  cases hm : mnemonicOf op with
  | none => rw [latchedResponse_of_reserved hm]; exact errResponse_sound .illop
  | some m => rw [← opcode_of_mnemonicOf hm, latchedResponse_opcode]; exact (response_admissible m a b).sound

/-- Some completion with an opcode in the latches answers `P` exactly when the opcode's response does for some
operands: the rest of the state plays no part. -/
theorem exists_completion_iff {op : Opcode} {P : Response → Prop} :
    (∃ s t : State, s.opr = op ∧ completeLatched s = .next t ∧ P (responseOf t)) ↔
      ∃ a b, P (latchedResponse op a b) := by
  constructor
  · rintro ⟨s, t, rfl, hc, hP⟩
    rw [completeLatched_eq] at hc
    cases hc
    exact ⟨s.a, s.b, hP⟩
  · rintro ⟨a, b, hP⟩
    exact ⟨{ State.reset with opr := op, a := a, b := b }, _, rfl, completeLatched_eq _, hP⟩

/-- The codes an opcode responds with are those of its row. -/
theorem mem_errCodesOf_iff (op : Opcode) (e : BitVec 3) :
    e ∈ errCodesOf op ↔ ∃ a b, (latchedResponse op a b).err = e := by
  cases hm : mnemonicOf op with
  | none =>
    simp only [errCodesOf_reserved op hm, latchedResponse_of_reserved hm, List.mem_singleton, exists_const]
    exact eq_comm
  | some m =>
    obtain rfl := opcode_of_mnemonicOf hm
    simp only [latchedResponse_opcode]
    constructor
    · rw [errCodesOf_opcode, List.mem_cons, List.mem_map]
      rintro (rfl | ⟨e', he', rfl⟩)
      · exact ⟨_, _, err_at_one m⟩
      · obtain ⟨a, b, hr⟩ := exists_operands_of_raisedErrors he'
        exact ⟨a, b, congrArg Response.err hr⟩
    · rintro ⟨a, b, rfl⟩
      exact (response_admissible m a b).err_mem

/-- The opcodes that set the flag are those of the list. -/
theorem mem_flagOpcodes_iff (op : Opcode) : op ∈ flagOpcodes ↔ ∃ a b, (latchedResponse op a b).ovf = true := by
  cases hm : mnemonicOf op with
  | none =>
    simp only [latchedResponse_of_reserved hm, errResponse_ovf]
    exact iff_of_false (fun h => flagOpcodes_assigned op h hm) (by simp)
  | some m =>
    obtain rfl := opcode_of_mnemonicOf hm
    simp only [latchedResponse_opcode]
    exact ⟨exists_operands_of_mem_flagOpcodes, fun ⟨a, b, h⟩ => (response_admissible m a b).opcode_mem_of_ovf h⟩

/-- Settles O19: the table is about responses, and each row is reached by operands and bounded by `Admissible`. -/
theorem errorAndFlagTable : Obligations.ErrorAndFlagTable := by
  refine ⟨fun op e => ?codes, fun op => ?flags, fun s t hc he => ?empty⟩
  case codes => exact (mem_errCodesOf_iff op e).trans (exists_completion_iff (P := fun r => r.err = e)).symm
  case flags => exact (mem_flagOpcodes_iff op).trans (exists_completion_iff (P := fun r => r.ovf = true)).symm
  case empty =>
    rw [completeLatched_eq] at hc
    cases hc
    exact ((latchedResponse_sound s.opr s.a s.b).errorEmpty he).symm

/-! ### The invariant -/

/-- Reset meets the invariant, whatever was in flight and whatever the host will drive. -/
theorem inv_resetRegisters (s : State) : Inv (resetRegisters s) where
  errLegal := by simp [ErrLegal]
  errorsEmpty := by simp [ErrorsEmpty]
  flagMeansClamped := by simp [FlagMeansClamped]
  unansweredIsReset := by simp [UnansweredIsReset]
  pulseAfterCompletion := by simp [PulseAfterCompletion]
  waitMatchesBusy := by simp [WaitMatchesBusy]
  responseOfLatches := by simp [ResponseOfLatches]

/-- A completion establishes the invariant by itself: the registers now hold the response of the latches. -/
theorem inv_respond_latched (s : State) : Inv (respond (latchedResponse s.opr s.a s.b) s) where
  errLegal := (latchedResponse_sound s.opr s.a s.b).errLegal
  errorsEmpty := (latchedResponse_sound s.opr s.a s.b).errorEmpty
  flagMeansClamped := (latchedResponse_sound s.opr s.a s.b).flagClamped
  unansweredIsReset := by simp [UnansweredIsReset]
  pulseAfterCompletion := by simp [PulseAfterCompletion]
  waitMatchesBusy := by simp [WaitMatchesBusy]
  responseOfLatches _ _ := by rw [completeLatched_eq]; rfl

theorem inv_of_completeLatched {s t : State} (h : completeLatched s = .next t) : Inv t := by
  rw [completeLatched_eq] at h
  cases h
  exact inv_respond_latched s

/-- An idle cycle keeps the invariant, whatever the host goes on to. -/
theorem inv_idle_withHost {s : State} (h : Inv s) (rest : List Pins) : Inv (idle (withHost rest s)) where
  errLegal := h.errLegal
  errorsEmpty := h.errorsEmpty
  flagMeansClamped := h.flagMeansClamped
  unansweredIsReset hv := by
    obtain ⟨hres, hovf, herr, -⟩ := h.unansweredIsReset hv
    exact ⟨hres, hovf, herr, rfl⟩
  pulseAfterCompletion := by simp [PulseAfterCompletion]
  waitMatchesBusy := h.waitMatchesBusy
  responseOfLatches hv hb := by
    have hs := h.responseOfLatches hv hb
    rw [completeLatched_eq, Host.Outcome.next.injEq] at hs ⊢
    exact congrArg (withHost rest) hs

theorem inv_idle {s : State} (h : Inv s) : Inv (idle s) := inv_idle_withHost h s.host

/-- A command in flight keeps the invariant while it leaves the response registers alone: its latches are free,
since nothing is at rest. -/
theorem inv_of_inFlight {s t : State} (h : Inv s) (hresp : responseOf t = responseOf s)
    (hrvalid : t.rvalid = s.rvalid) (hbusy : t.busy = true) (hpulse : t.rspValid = false) (hwait : 1 ≤ t.wait) :
    Inv t := by
  obtain ⟨hres, hovf, herr⟩ : t.res = s.res ∧ t.ovf = s.ovf ∧ t.err = s.err := by
    simpa [responseOf] using hresp
  exact {
    errLegal := by rw [ErrLegal, herr]; exact h.errLegal
    errorsEmpty := by rw [ErrorsEmpty, hres, hovf, herr]; exact h.errorsEmpty
    flagMeansClamped := by rw [FlagMeansClamped, hres, hovf]; exact h.flagMeansClamped
    unansweredIsReset := fun hv => by
      obtain ⟨h0res, h0ovf, h0err, -⟩ := h.unansweredIsReset (hrvalid ▸ hv)
      exact ⟨hres.trans h0res, hovf.trans h0ovf, herr.trans h0err, hpulse⟩
    pulseAfterCompletion := by simp [PulseAfterCompletion, hpulse]
    waitMatchesBusy := by simp [WaitMatchesBusy, hbusy, hwait]
    responseOfLatches := by simp [ResponseOfLatches, hbusy] }

/-- Settles O11: the reset state as it is written. -/
theorem resetLeavesRegistersZero : Obligations.ResetLeavesRegistersZero :=
  ⟨reset_opr, reset_a, reset_b, reset_res, reset_ovf, reset_err, reset_rvalid, reset_busy⟩

/-- Settles O13: `State.reset` is its own reset. -/
theorem resetMeetsInvariant : Obligations.ResetMeetsInvariant := inv_resetRegisters State.reset

/-- Settles O14, by the four things a step can do. -/
theorem stepKeepsInvariant : Obligations.StepKeepsInvariant := by
  intro s t hs ht
  rcases step_cases ht with ⟨r, -, hc, rfl⟩ | ⟨p, rest, -, -, rfl⟩ | ⟨p, rest, r, -, -, -, -, hc, rfl⟩ |
    ⟨rest, -, rfl⟩
  case inl => exact inv_of_completeLatched hc
  case inr.inl => exact inv_resetRegisters _
  case inr.inr.inl => exact inv_of_completeLatched hc
  case inr.inr.inr => exact inv_idle_withHost hs rest

/-- Settles O15, by the six things a clock edge can do. -/
theorem clockEdgeKeepsInvariant : Obligations.ClockEdgeKeepsInvariant := by
  intro p s t hs ht
  rcases clockEdge_cases p s with ⟨-, he⟩ | ⟨-, hb, hw, he⟩ | ⟨-, -, -, he⟩ | ⟨-, -, -, hlat, he⟩ |
    ⟨-, -, -, -, he⟩ | ⟨-, -, -, he⟩ <;> rw [he] at ht
  case inl => cases ht; exact inv_resetRegisters s
  case inr.inl => cases ht; exact inv_of_inFlight hs rfl rfl hb rfl (by dsimp only; omega)
  case inr.inr.inl => exact inv_of_completeLatched ht
  case inr.inr.inr.inl => cases ht; exact inv_of_inFlight hs rfl rfl rfl rfl (by dsimp only; omega)
  case inr.inr.inr.inr.inl => exact inv_of_completeLatched ht
  case inr.inr.inr.inr.inr => cases ht; exact inv_idle hs

/-- Settles O18: the pulse says that the block is idle, so the edge accepts, and completes at once only where the
latency is 1. -/
theorem backToBackAccept : Obligations.BackToBackAccept := by
  intro s p hs hpulse hr hv
  obtain ⟨hrvalid, hb⟩ := hs.pulseAfterCompletion hpulse
  refine ⟨by simp [cmdReady, hb], ?_⟩
  have hedge := clockEdge_of_command hr hb hv
  by_cases hlat : 2 ≤ latency p.cmdOp p.cmdA p.cmdB
  · rw [busyEdge_of_two_le hlat] at hedge
    exact ⟨_, hedge, rfl, rfl, rfl, hrvalid, iff_of_true rfl hlat⟩
  · rw [busyEdge_of_le_one (by simp; omega)] at hedge
    exact ⟨_, hedge, rfl, rfl, rfl, rfl, iff_of_false Bool.false_ne_true hlat⟩

end Sys2Proof.Proofs
end

section
/-! The angle reducers' ranges (spec/44_trig.md R146, R147, R162), and the table indices formed from a reduced angle:
every one is an index of the table (spec/20_memory.md R50, spec/44_trig.md R153, R160, R163). -/

namespace Sys2Proof.Proofs

open Sys2Proof.Machine

/-! ### The truncating remainder (spec/00_scope.md R11) -/

theorem trem_nonneg {t : Int} (h : 0 ≤ t) (d : Int) : 0 ≤ trem t d := by
  rw [trem_eq_tmod]
  exact Int.tmod_nonneg d h

theorem trem_nonpos {t : Int} (h : t ≤ 0) (d : Int) : trem t d ≤ 0 := by
  have hneg : 0 ≤ (-t).tmod d := Int.tmod_nonneg d (by omega)
  rw [Int.neg_tmod] at hneg
  rw [trem_eq_tmod]
  omega

theorem abs_trem_lt (t : Int) {d : Int} (h : 0 < d) : |trem t d| < d := by
  rw [trem_eq_tmod, abs_lt]
  exact ⟨Int.lt_tmod_of_pos t h, Int.tmod_lt_of_pos t h⟩

/-! ### The sine reducer (R146, R147) -/

/-- Passes of the reducer keep a non-negative angle non-negative, whatever the moduli. -/
theorem foldl_trem_nonneg (l : List Nat) {c : Int} (h : 0 ≤ c) :
    0 ≤ l.foldl (fun c i => trem c (reducerModulus i)) c := by
  induction l generalizing c with
  | nil => exact h
  | cons i l ih => exact ih (trem_nonneg h _)

/-- Passes of the reducer keep a non-positive angle non-positive, whatever the moduli. -/
theorem foldl_trem_nonpos (l : List Nat) {c : Int} (h : c ≤ 0) :
    l.foldl (fun c i => trem c (reducerModulus i)) c ≤ 0 := by
  induction l generalizing c with
  | nil => exact h
  | cons i l ih => exact ih (trem_nonpos h _)

theorem remainderChain_nonneg {x : Int} (h : 0 ≤ x) : 0 ≤ remainderChain x := foldl_trem_nonneg _ h

theorem remainderChain_nonpos {x : Int} (h : x ≤ 0) : remainderChain x ≤ 0 := foldl_trem_nonpos _ h

/-- The last modulus bounds the chain (R147, item 1). -/
theorem abs_remainderChain_lt (x : Int) : |remainderChain x| < piTimes2 := by
  unfold remainderChain
  rw [List.range_succ, List.foldl_append, ← reducerModulus_last]
  exact abs_trem_lt _ (reducerModulus_pos le_rfl)

/-- A non-negative angle is left as the chain leaves it, below a turn (R147, item 2). -/
theorem turnAngle_of_nonneg {x : Int} (h : 0 ≤ x) : 0 ≤ turnAngle x ∧ turnAngle x < piTimes2 := by
  rw [turnAngle, if_neg (not_lt.mpr h)]
  exact ⟨remainderChain_nonneg h, (abs_lt.mp (abs_remainderChain_lt x)).2⟩

/-- A negative angle is turned into `(0, PiTimes2]`: the whole turn where the chain leaves 0 (R147, item 2). -/
theorem turnAngle_of_neg {x : Int} (h : x < 0) : 0 < turnAngle x ∧ turnAngle x ≤ piTimes2 := by
  have hlower := (abs_lt.mp (abs_remainderChain_lt x)).1
  have hsign := remainderChain_nonpos h.le
  rw [turnAngle, if_pos h]
  omega

theorem turnAngle_range (x : Int) : 0 ≤ turnAngle x ∧ turnAngle x ≤ piTimes2 := by
  rcases lt_or_ge x 0 with h | h
  · exact ⟨(turnAngle_of_neg h).1.le, (turnAngle_of_neg h).2⟩
  · exact ⟨(turnAngle_of_nonneg h).1, (turnAngle_of_nonneg h).2.le⟩

/-- `n` subtractions bring an angle below `(n + 1) · Pi` into `[0, Pi)`. -/
theorem foldPi_range (n : Nat) {c : Int} (h0 : 0 ≤ c) (h1 : c < (n + 1) * pi) : 0 ≤ foldPi n c ∧ foldPi n c < pi := by
  induction n generalizing c with
  | zero => exact ⟨h0, by simpa [foldPi] using h1⟩
  | succ n ih =>
    unfold foldPi
    split
    · refine ih (by omega) ?_
      push_cast at h1
      linarith
    · exact ⟨h0, by omega⟩

/-- Two subtractions fold the turned angle, for `PiTimes2` is below `3 · Pi` (R147, item 3). -/
theorem foldPi_turnAngle_range (x : Int) : 0 ≤ foldPi 2 (turnAngle x) ∧ foldPi 2 (turnAngle x) < pi := by
  obtain ⟨h0, h1⟩ := turnAngle_range x
  exact foldPi_range 2 h0 (lt_of_le_of_lt h1 (by decide))

/-- The reduced angle is in `[0, PiOver2)` (R147, item 4). -/
theorem reduceSin_q_range (x : Int) : 0 ≤ (reduceSin x).q ∧ (reduceSin x).q < piOver2 := by
  obtain ⟨h0, h1⟩ := foldPi_turnAngle_range x
  rw [pi_eq_two_piOver2] at h1
  unfold reduceSin
  dsimp only
  split <;> omega

/-! ### The tangent reducer (R162) -/

/-- The reduced tangent angle is in `[0, PiOver2]`, `PiOver2` included (R163). -/
theorem reduceTan_c_range (x : Int) : 0 ≤ (reduceTan x).c ∧ (reduceTan x).c ≤ piOver2 := by
  obtain ⟨hlower, hupper⟩ := abs_lt.mp (abs_trem_lt x (show 0 < pi by decide))
  rw [pi_eq_two_piOver2] at hlower hupper
  unfold reduceTan
  rw [pi_eq_two_piOver2]
  generalize trem x (2 * piOver2) = c at hlower hupper
  dsimp only
  split <;> split <;> dsimp only <;> omega

/-! ### Rounding to an integer (spec/42_rounding_classification.md R123) -/

/-- Rounding goes down to the floor or up by one, each only from its own half; the tie can go either way. -/
theorem roundExact_cases (x : Int) :
    (roundExact x = floorPart x ∧ frac x ≤ 2 ^ 31) ∨ (roundExact x = floorPart x + one ∧ 2 ^ 31 ≤ frac x) := by
  unfold roundExact
  split
  · exact .inl ⟨rfl, by omega⟩
  split
  · exact .inr ⟨rfl, by omega⟩
  split
  · exact .inr ⟨rfl, by omega⟩
  · exact .inl ⟨rfl, by omega⟩

theorem floorPart_eq_mul (x : Int) : floorPart x = x / 2 ^ 32 * 2 ^ 32 := by
  unfold floorPart frac
  omega

/-- The rounded value is a multiple of `one`, at most half of `one` away. -/
theorem roundExact_eq_mul (x : Int) :
    ∃ k, roundExact x = k * 2 ^ 32 ∧ -2 ^ 31 ≤ x - k * 2 ^ 32 ∧ x - k * 2 ^ 32 ≤ 2 ^ 31 := by
  have hfloor := floorPart_eq_mul x
  have hfrac := frac_range x
  have hx : x = floorPart x + frac x := by simp [floorPart]
  rcases roundExact_cases x with ⟨h, hhalf⟩ | ⟨h, hhalf⟩
  · exact ⟨x / 2 ^ 32, by omega, by omega⟩
  · exact ⟨x / 2 ^ 32 + 1, by unfold one at h; omega, by omega⟩

/-! ### The interpolator's indices (R149, R150, R153) -/

/-- The position of a reduced angle is below index 205886 by one raw unit or more (R149). -/
theorem indexOf_range {q : Int} (h0 : 0 ≤ q) (h1 : q ≤ piOver2) : 0 ≤ indexOf q ∧ indexOf q < 205886 * 2 ^ 32 := by
  have hexact : 0 ≤ mulExact q lutInterval ∧ mulExact q lutInterval < 205886 * 2 ^ 32 := by
    unfold mulExact floorDiv lutInterval
    unfold piOver2 at h1
    omega
  rw [indexOf, fmul_of_range hexact.1 (by omega)]
  exact hexact

/-- The nearest index and the error are the position's: nothing clamps or wraps between them (R150). -/
theorem indexOf_eq_nearIndex_add_error {q : Int} (h0 : 0 ≤ q) (h1 : q ≤ piOver2) :
    indexOf q = nearIndex q * 2 ^ 32 + indexError q ∧ -2 ^ 31 ≤ indexError q ∧ indexError q ≤ 2 ^ 31 := by
  obtain ⟨hpos0, hpos1⟩ := indexOf_range h0 h1
  obtain ⟨k, hk, hlower, hupper⟩ := roundExact_eq_mul (indexOf q)
  have hround : roundSat (indexOf q) = k * 2 ^ 32 := by
    rw [roundSat, sat_value, hk]
    exact clamp_of_range (by omega) (by omega)
  have hnear : nearIndex q = k := by
    rw [nearIndex, hround]
    exact Int.mul_ediv_cancel k (by decide)
  have herror : indexError q = indexOf q - k * 2 ^ 32 := by
    rw [indexError, hround]
    exact wrap_of_range (by omega) (by omega)
  rw [hnear, herror]
  omega

theorem nearIndex_range {q : Int} (h0 : 0 ≤ q) (h1 : q ≤ piOver2) : 0 ≤ nearIndex q ∧ nearIndex q ≤ 205886 := by
  obtain ⟨hpos0, hpos1⟩ := indexOf_range h0 h1
  obtain ⟨hsum, hlower, hupper⟩ := indexOf_eq_nearIndex_add_error h0 h1
  omega

/-- The neighbour on the side of the error is in the table too: at index 0 the error is not negative, and at the last
index it is negative. -/
theorem nearIndex_add_sgn_range {q : Int} (h0 : 0 ≤ q) (h1 : q ≤ piOver2) :
    0 ≤ nearIndex q + sgn (indexError q) ∧ nearIndex q + sgn (indexError q) ≤ 205886 := by
  obtain ⟨hpos0, hpos1⟩ := indexOf_range h0 h1
  obtain ⟨hsum, -, -⟩ := indexOf_eq_nearIndex_add_error h0 h1
  have hnear := nearIndex_range h0 h1
  unfold sgn
  split
  · omega
  split <;> omega

theorem firstRead_range {q : Int} (mirror : Bool) (h0 : 0 ≤ q) (h1 : q ≤ piOver2) :
    0 ≤ firstRead q mirror ∧ firstRead q mirror ≤ 205886 := by
  have hnear := nearIndex_range h0 h1
  unfold firstRead lutLength
  split <;> omega

theorem secondRead_range {q : Int} (mirror : Bool) (h0 : 0 ≤ q) (h1 : q ≤ piOver2) :
    0 ≤ secondRead q mirror ∧ secondRead q mirror ≤ 205886 := by
  have hsec := nearIndex_add_sgn_range h0 h1
  unfold secondRead lutLength
  split <;> omega

/-! ### The index without interpolation (R160) -/

theorem fastIndex_range {q : Int} (h : 0 ≤ q) : 0 ≤ fastIndex q ∧ fastIndex q ≤ 205886 := by
  unfold fastIndex floorDiv lutLength
  dsimp only
  split <;> omega

theorem fastRead_range {r : ReducedAngle} (h : 0 ≤ r.q) : 0 ≤ fastRead r ∧ fastRead r ≤ 205886 := by
  have hfast := fastIndex_range h
  unfold fastRead lutLength
  split <;> omega

/-- Settles O43: the reducers' ranges are the premises of the index ranges, for every angle and so for the adjusted
one too. -/
theorem tableReadsAlwaysInRange : Obligations.TableReadsAlwaysInRange := by
  intro a x _
  obtain ⟨hq0, hq1⟩ := reduceSin_q_range x
  obtain ⟨hc0, hc1⟩ := reduceTan_c_range x
  exact ⟨firstRead_range _ hq0 hq1.le, secondRead_range _ hq0 hq1.le, fastRead_range hq0,
    firstRead_range false hc0 hc1, secondRead_range false hc0 hc1⟩

end Sys2Proof.Proofs
end

section
/-! The encoding: a word and a command are the same three fields, so decoding and encoding undo each other
(spec/30_encoding.md R60, R62 to R65, R67, R68). -/

namespace Sys2Proof.Proofs

open Sys2Proof.Machine

/-! ### Command words and their fields -/

/-- The three fields cover the command word: packing them again loses no bit (R60). -/
@[simp] theorem pack_fields (cw : CommandWord) : CommandWord.pack cw.opcode cw.operandA cw.operandB = cw := by
  apply BitVec.eq_of_getLsbD_eq
  intro i hi
  simp only [CommandWord.pack, CommandWord.opcode, CommandWord.operandA, CommandWord.operandB, BitVec.getLsbD_cast,
    BitVec.getLsbD_append, BitVec.getLsbD_extractLsb']
  by_cases ha : i < 128
  · by_cases hb : i < 64
    · simp [ha, hb]
    · simp [ha, hb, show i - 64 < 64 by omega, show 64 + (i - 64) = i by omega]
  · simp [ha, show i - 128 < 6 by omega, show 128 + (i - 128) = i by omega]

/-- A command is its mnemonic with its two operands. -/
@[simp] theorem instr_fields (i : Instr) : i.mnemonic.instr i.operandA i.operandB = i := by cases i <;> rfl

/-! ### Reserved and assigned opcodes -/

/-- The 29 reserved values of R67 are exactly the values without a row in R64. -/
theorem mem_reservedOpcodes_iff : ∀ op : Opcode, op ∈ reservedOpcodes ↔ mnemonicOf op = none := by decide

theorem opcode_notMem_reservedOpcodes (m : Mnemonic) : m.opcode ∉ reservedOpcodes := by
  rw [mem_reservedOpcodes_iff, mnemonicOf_opcode]
  exact Option.some_ne_none m

theorem wellFormed_eq_true (i : Instr) : i.wellFormed = true := by
  simp [Instr.wellFormed, opcode_notMem_reservedOpcodes]

/-- Decoding fails exactly on the reserved opcodes, whatever the operands (R67). -/
theorem decodeFields_eq_error_iff (op : Opcode) (a b : Word) :
    decodeFields op a b = .error (.reservedOpcode op) ↔ op ∈ reservedOpcodes := by
  rw [mem_reservedOpcodes_iff]
  cases hm : mnemonicOf op with
  | none => simp [decodeFields_of_reserved hm]
  | some m => simp [decodeFields_of_mnemonicOf hm]

/-! ### Decoding and encoding undo each other -/

@[simp] theorem decode_encode (i : Instr) : decode (encode i) = .ok i := by
  rw [encode, decode_pack, decodeFields_of_mnemonicOf (mnemonicOf_opcode i.mnemonic), instr_fields]

theorem encode_of_decode {cw : CommandWord} {i : Instr} (h : decode cw = .ok i) : encode i = cw := by
  obtain ⟨hop, ha, hb⟩ := fields_of_decodeFields h
  rw [encode, hop, ha, hb, pack_fields]

/-- Settles O1: an opcode of R64 is not reserved, and packing keeps the three fields that make the command. -/
theorem decodeOfEncodeIsTheCommand : Obligations.DecodeOfEncodeIsTheCommand :=
  fun i => ⟨wellFormed_eq_true i, decode_encode i⟩

/-- Settles O2: a decoded command has the fields of its word, and they are the whole word. -/
theorem encodeOfDecodeIsTheWord : Obligations.EncodeOfDecodeIsTheWord :=
  fun _ _ h => encode_of_decode h

/-- Settles O3: the opcode field alone decides, and it has no mnemonic exactly when it is reserved. -/
theorem decodeRejectsExactlyReserved : Obligations.DecodeRejectsExactlyReserved :=
  fun cw => decodeFields_eq_error_iff cw.opcode cw.operandA cw.operandB

/-- Settles O4: the decoder run on the five words. -/
theorem writtenWordsDecode : Obligations.WrittenWordsDecode := by
  unfold Obligations.WrittenWordsDecode
  decide

/-! ### The response word and its fields -/

@[simp] theorem packResponse_err (err : BitVec 3) (ovf : Bool) (res : Word) :
    (packResponse err ovf res).extractLsb' 65 3 = err := by
  ext i hi
  simp only [packResponse, BitVec.getElem_extractLsb', BitVec.getLsbD_cast, BitVec.getLsbD_append]
  simp [hi]

@[simp] theorem packResponse_ovf (err : BitVec 3) (ovf : Bool) (res : Word) :
    (packResponse err ovf res).getLsbD 64 = ovf := by
  simp only [packResponse, BitVec.getLsbD_cast, BitVec.getLsbD_append]
  simp

@[simp] theorem packResponse_res (err : BitVec 3) (ovf : Bool) (res : Word) :
    (packResponse err ovf res).extractLsb' 0 64 = res := by
  ext i hi
  simp only [packResponse, BitVec.getElem_extractLsb', BitVec.getLsbD_cast, BitVec.getLsbD_append]
  simp [hi, show i < 65 by omega]

/-- Settles O5: the field lemmas of `packResponse` at the response registers. -/
theorem responseWordFields : Obligations.ResponseWordFields :=
  fun s => ⟨packResponse_err s.err s.ovf s.res, packResponse_ovf s.err s.ovf s.res,
    packResponse_res s.err s.ovf s.res⟩

/-! ### The second operand of a one-operand command -/

/-- Settles O10: the mnemonics with two operands are not meant, and every other meaning leaves `b` out. -/
theorem unusedOperandIsIgnored : Obligations.UnusedOperandIsIgnored := by
  intro m a b b' s hm
  cases m with
  | cmp | add | sub | mul | div | mod | fadd | fsub | fmul | fmod | atan2 | pow => exact absurd hm (by decide)
  | _ => rfl

end Sys2Proof.Proofs
end

section
/-! Conversion and comparison: what FROMINT, TOINT and CMP respond, on the words and on their integers
(spec/40_conversion_compare.md R81 to R84). -/

namespace Sys2Proof.Proofs

open Sys2Proof.Machine

/-! ### The responses -/

theorem response_fromint (a b : Word) : response (.fromint a b) = okResponse (unflagged (raw a * 2 ^ 32)) := rfl

theorem response_toint (a b : Word) : response (.toint a b) = okResponse (unflagged (raw a / 2 ^ 32)) := rfl

theorem response_cmp (a b : Word) : response (.cmp a b) = okResponse (unflagged (compare3 (raw a) (raw b))) := rfl

theorem response_floor (a b : Word) : response (.floor a b) = okResponse (unflagged (floorPart (raw a))) := rfl

/-- A command whose response is an unflagged value answers with that value's word, in every state. -/
theorem exec_of_response_unflagged {i : Instr} {v : Int} (h : response i = okResponse (unflagged v)) (s : State) :
    exec i s = .next (answered s (wordOf v) false 0) := by
  rw [exec_eq_respond, h]
  rfl

/-- An unflagged value in range reads back from its response. -/
theorem raw_response_unflagged {v : Int} (hlower : -(2 ^ 63) ≤ v) (hupper : v < 2 ^ 63) :
    raw (okResponse (unflagged v)).res = v := raw_wordOf hlower hupper

/-! ### Shifts -/

/-- The word of `a * 2^32` is a shift: the low 64 bits of the product have 32 zeros below `a[31:0]` (R81). -/
theorem wordOf_raw_mul (a : Word) : wordOf (raw a * 2 ^ 32) = a <<< 32 := by
  calc wordOf (raw a * 2 ^ 32)
      = wordOf (raw a) * wordOf (2 ^ 32) := BitVec.ofInt_mul _ _
    _ = a * BitVec.twoPow 64 32 := by rw [wordOf_raw]; rfl
    _ = a <<< 32 := BitVec.mul_twoPow_eq_shiftLeft a 32

/-- The word of the floored quotient is the arithmetic shift (R82). -/
theorem wordOf_raw_div (a : Word) : wordOf (raw a / 2 ^ 32) = a.sshiftRight 32 := by
  have hshift : (a.sshiftRight 32).toInt = raw a / 2 ^ 32 := by
    rw [BitVec.toInt_sshiftRight, Int.shiftRight_eq_div_pow]
    rfl
  rw [← hshift]
  exact wordOf_raw _

/-- TOINT's integer is in range, so the word it answers reads back as that integer (R82). -/
theorem raw_response_toint (a b : Word) : raw (response (.toint a b)).res = raw a / 2 ^ 32 := by
  have hlower := raw_lower a
  have hupper := raw_upper a
  rw [response_toint]
  exact raw_response_unflagged (by omega) (by omega)

/-- Where the integer fits 32 bits, FROMINT's product is exact (R81). -/
theorem raw_response_fromint {k : Word} (hlower : -(2 ^ 31) ≤ raw k) (hupper : raw k < 2 ^ 31) (b : Word) :
    raw (response (.fromint k b)).res = raw k * 2 ^ 32 := by
  rw [response_fromint]
  exact raw_response_unflagged (by omega) (by omega)

/-! ### The three-way comparison -/

/-- What the comparison answers, by the order of its arguments (R83). -/
theorem compare3_cases (x y : Int) :
    (x < y ∧ compare3 x y = -1) ∨ (x = y ∧ compare3 x y = 0) ∨ (y < x ∧ compare3 x y = 1) := by
  unfold compare3
  rcases lt_trichotomy x y with hlt | heq | hgt
  · exact .inl ⟨hlt, if_pos hlt⟩
  · exact .inr (.inl ⟨heq, by simp [heq]⟩)
  · exact .inr (.inr ⟨hgt, by rw [if_neg hgt.not_gt, if_neg hgt.ne']⟩)

theorem compare3_swap (x y : Int) : compare3 x y = -compare3 y x := by
  rcases compare3_cases x y with ⟨h, e⟩ | ⟨h, e⟩ | ⟨h, e⟩ <;>
    rcases compare3_cases y x with ⟨h', e'⟩ | ⟨h', e'⟩ | ⟨h', e'⟩ <;> omega

theorem compare3_nonpos_iff (x y : Int) : compare3 x y ≤ 0 ↔ x ≤ y := by
  rcases compare3_cases x y with ⟨h, e⟩ | ⟨h, e⟩ | ⟨h, e⟩ <;> omega

/-- The three answers as words, with the order read off the words themselves (R83). -/
theorem wordOf_compare3 (a b : Word) :
    wordOf (compare3 (raw a) (raw b)) = if a.slt b then -1 else if a = b then 0 else 1 := by
  have hslt : a.slt b = true ↔ raw a < raw b := BitVec.slt_iff_toInt_lt
  have heq : a = b ↔ raw a = raw b := BitVec.toInt_inj.symm
  rcases compare3_cases (raw a) (raw b) with ⟨h, e⟩ | ⟨h, e⟩ | ⟨h, e⟩
  · rw [e, if_pos (hslt.mpr h)]
    rfl
  · rw [e, if_neg (by rw [hslt]; omega), if_pos (heq.mpr h)]
    rfl
  · rw [e, if_neg (by rw [hslt]; omega), if_neg (by rw [heq]; omega)]
    rfl

/-- CMP's word reads back as the comparison. -/
theorem raw_response_cmp (a b : Word) : raw (response (.cmp a b)).res = compare3 (raw a) (raw b) := by
  rw [response_cmp]
  rcases compare3_cases (raw a) (raw b) with ⟨-, e⟩ | ⟨-, e⟩ | ⟨-, e⟩ <;>
    exact raw_response_unflagged (by omega) (by omega)

/-- CMP answers at most 0 exactly when its operands are in order. -/
theorem response_cmp_nonpos_iff (a b : Word) : (response (.cmp a b)).res.toInt ≤ 0 ↔ raw a ≤ raw b := by
  have hres : (response (.cmp a b)).res.toInt = compare3 (raw a) (raw b) := raw_response_cmp a b
  rw [hres, compare3_nonpos_iff]

/-! ### The statements -/

/-- Settles O20: FROMINT responds the word of `a * 2^32`, which is the shift. -/
theorem fromintShiftsLeft : Obligations.FromintShiftsLeft := by
  intro a b s
  rw [exec_of_response_unflagged (response_fromint a b), wordOf_raw_mul]

/-- Settles O21: TOINT responds the word of the floored quotient, which is the arithmetic shift. -/
theorem tointShiftsRight : Obligations.TointShiftsRight := by
  intro a b s
  rw [exec_of_response_unflagged (response_toint a b), wordOf_raw_div]

/-- Settles O22: CMP responds the comparison of the integers, and words are ordered as their integers. -/
theorem cmpOrdersSigned : Obligations.CmpOrdersSigned := by
  intro a b s
  rw [exec_of_response_unflagged (response_cmp a b), wordOf_compare3]

theorem toint_fromint {k : Word} (hlower : -(2 ^ 31) ≤ raw k) (hupper : raw k < 2 ^ 31) (b b' : Word) :
    (response (.toint (response (.fromint k b)).res b')).res = k := by
  rw [response_toint, raw_response_fromint hlower hupper, okResponse_res, unflagged_value,
    Int.mul_ediv_cancel _ (by decide), wordOf_raw]

theorem fromint_toint (a b b' b'' : Word) :
    (response (.fromint (response (.toint a b)).res b')).res = (response (.floor a b'')).res := by
  rw [response_fromint, raw_response_toint, response_floor, floorPart_eq_mul]

theorem cmp_swap (a b : Word) : (response (.cmp a b)).res = -(response (.cmp b a)).res := by
  rw [response_cmp, response_cmp, compare3_swap]
  exact BitVec.ofInt_neg

theorem cmp_trans {a b c : Word} (hab : (response (.cmp a b)).res.toInt ≤ 0)
    (hbc : (response (.cmp b c)).res.toInt ≤ 0) : (response (.cmp a c)).res.toInt ≤ 0 := by
  rw [response_cmp_nonpos_iff] at hab hbc ⊢
  exact hab.trans hbc

/-- Settles O23: one lemma per law of R84. -/
theorem conversionLaws : Obligations.ConversionLaws :=
  ⟨fun _ b b' hlower hupper => toint_fromint hlower hupper b b', fromint_toint, cmp_swap, fun _ _ _ => cmp_trans⟩

end Sys2Proof.Proofs
end

section
/-! Checked and fast arithmetic: what ADD, SUB, MUL, DIV, MOD, NEG, INC, DEC, FADD, FSUB, FMUL and FMOD respond
(spec/41_saturating_arithmetic.md R91 to R103). -/

namespace Sys2Proof.Proofs

open Sys2Proof.Machine

/-! ### Saturated values and errors in the words of the statements -/

theorem clampRange_cases (t : Int) :
    (2 ^ 63 ≤ t ∧ clampRange t = 2 ^ 63 - 1) ∨ (t < -(2 ^ 63) ∧ clampRange t = -(2 ^ 63)) ∨
      (-(2 ^ 63) ≤ t ∧ t < 2 ^ 63 ∧ clampRange t = t) := by
  unfold clampRange
  omega

/-- The model's clamp, by comparison with the two limits, is the statements' clamp by `min` and `max` (R10). -/
theorem clamp_eq_clampRange (t : Int) : clamp t = clampRange t := by
  have hmax : maxValue = 2 ^ 63 - 1 := rfl
  have hmin : minValue = -(2 ^ 63) := rfl
  rcases clamp_cases t with ⟨h, e⟩ | ⟨h, e⟩ | ⟨hlower, hupper, e⟩ <;>
    rcases clampRange_cases t with ⟨h', e'⟩ | ⟨h', e'⟩ | ⟨hlower', hupper', e'⟩ <;> omega

theorem sat_ovf_eq_overflows (t : Int) : (sat t).ovf = overflows t :=
  Bool.eq_iff_iff.mpr ((sat_ovf_iff t).trans (decide_eq_true_iff).symm)

/-- A command whose response is a saturated value answers with the clamped word and the exact flag, in every state. -/
theorem exec_of_response_sat {i : Instr} {t : Int} (h : response i = okResponse (sat t)) (s : State) :
    exec i s = .next (answered s (BitVec.ofInt 64 (clampRange t)) (overflows t) 0) := by
  rw [exec_eq_respond, h, respond_eq_answered, okResponse_res, okResponse_ovf, okResponse_err, sat_value,
    clamp_eq_clampRange, sat_ovf_eq_overflows]
  rfl

/-- A command whose response is an error answers empty with the error's code, in every state (R214). -/
theorem exec_of_response_error {i : Instr} {e : Err} (h : response i = errResponse e) (s : State) :
    exec i s = .next (answered s 0 false (errCode e)) := by
  rw [exec_eq_respond, h]
  rfl

/-! ### Raw values at the limits -/

theorem raw_eq_zero_iff (v : Word) : raw v = 0 ↔ v = 0 := BitVec.toInt_inj (y := 0)

theorem raw_ne_zero {v : Word} (h : v ≠ 0) : raw v ≠ 0 := mt (raw_eq_zero_iff v).mp h

theorem raw_eq_minValue_iff (v : Word) : raw v = minValue ↔ v = BitVec.intMin 64 :=
  BitVec.toInt_inj (y := BitVec.intMin 64)

theorem raw_eq_neg_one_iff (v : Word) : raw v = -1 ↔ v = -1 := BitVec.toInt_inj (y := -1)

/-! ### The responses -/

theorem response_add (a b : Word) : response (.add a b) = okResponse (sat (raw a + raw b)) := rfl

theorem response_sub (a b : Word) : response (.sub a b) = okResponse (sat (raw a - raw b)) := rfl

theorem response_mul (a b : Word) : response (.mul a b) = okResponse (sat (raw a * raw b / 2 ^ 32)) := rfl

theorem response_neg (a b : Word) : response (.neg a b) = okResponse (satNeg (raw a)) := rfl

theorem response_inc (a b : Word) : response (.inc a b) = okResponse (sat (raw a + 2 ^ 32)) := rfl

theorem response_dec (a b : Word) : response (.dec a b) = okResponse (sat (raw a - 2 ^ 32)) := rfl

theorem response_fadd (a b : Word) : response (.fadd a b) = okResponse (unflagged (wrap (raw a + raw b))) := rfl

theorem response_fsub (a b : Word) : response (.fsub a b) = okResponse (unflagged (wrap (raw a - raw b))) := rfl

theorem response_fmul (a b : Word) :
    response (.fmul a b) = okResponse (unflagged (wrap (raw a * raw b / 2 ^ 32))) := rfl

/-! ### Division (R94) -/

theorem response_div_zero (a : Word) : response (.div a 0) = errResponse .divzero := rfl

theorem response_div {b : Word} (h : b ≠ 0) (a : Word) :
    response (.div a b) = okResponse (sat (divExact (raw a) (raw b))) := by
  have hvalue : satDiv (raw a) (raw b) = .ok (sat (divExact (raw a) (raw b))) := if_neg (raw_ne_zero h)
  refine response_eq_of_exec fun s => ?_
  change complete (satDiv (raw a) (raw b)) s = _
  rw [hvalue, complete_ok]

theorem magnitude_eq_abs (t : Int) : magnitude t = |t| := Int.natCast_natAbs t

theorem divMagnitude_nonneg (x y : Int) : 0 ≤ divMagnitude x y := by
  unfold divMagnitude floorDiv magnitude
  positivity

/-- The magnitude is the scaled quotient rounded to nearest, halves up: twice the scaled dividend lies between the
odd multiples of the divisor on both sides of it. -/
theorem divMagnitude_nearest (x : Int) {y : Int} (h : y ≠ 0) :
    (2 * divMagnitude x y - 1) * |y| ≤ 2 * |x| * 2 ^ 32 ∧
      2 * |x| * 2 ^ 32 < (2 * divMagnitude x y + 1) * |y| := by
  have hpos : 0 < 2 * |y| := by have := abs_pos.mpr h; omega
  have hm : divMagnitude x y = (2 * |x| * 2 ^ 32 + |y|) / (2 * |y|) := by
    unfold divMagnitude floorDiv
    rw [magnitude_eq_abs, magnitude_eq_abs]
  have hlower := Int.ediv_mul_le (2 * |x| * 2 ^ 32 + |y|) hpos.ne'
  have hupper := Int.lt_ediv_add_one_mul_self (2 * |x| * 2 ^ 32 + |y|) hpos
  rw [← hm] at hlower hupper
  constructor <;> linarith

theorem divExact_eq_ite (x y : Int) :
    divExact x y = if (x < 0 ↔ y < 0) then divMagnitude x y else -divMagnitude x y := by
  unfold divExact
  simp only [decide_eq_decide]

/-! ### Remainders (R95, R103) -/

theorem response_mod_zero (a : Word) : response (.mod a 0) = errResponse .divzero := rfl

/-- The guard of MOD answers what the truncating remainder is there: it changes no value. -/
theorem modValue_of_ne {x y : Int} (h : y ≠ 0) : modValue x y = .ok (x.tmod y) := by
  unfold modValue
  rw [if_neg h]
  split
  · next hguard =>
    obtain ⟨rfl, rfl⟩ := hguard
    rfl
  · rw [trem_eq_tmod]

theorem response_mod {b : Word} (h : b ≠ 0) (a : Word) :
    response (.mod a b) = okResponse (unflagged ((raw a).tmod (raw b))) := by
  refine response_eq_of_exec fun s => ?_
  change completeValue (modValue (raw a) (raw b)) s = _
  rw [modValue_of_ne (raw_ne_zero h), completeValue_ok]

theorem abs_tmod_lt (t : Int) {d : Int} (h : d ≠ 0) : |t.tmod d| < |d| := by
  have habs : t.tmod |d| = t.tmod d := by
    rcases abs_choice d with e | e
    · rw [e]
    · rw [e, Int.tmod_neg]
  rw [← habs, ← trem_eq_tmod]
  exact abs_trem_lt t (abs_pos.mpr h)

/-- MOD's remainder is below the divisor in magnitude, so it reads back from its word. -/
theorem raw_response_mod {b : Word} (h : b ≠ 0) (a : Word) :
    raw (response (.mod a b)).res = (raw a).tmod (raw b) := by
  obtain ⟨hlower, hupper⟩ := abs_lt.mp (abs_tmod_lt (raw a) (raw_ne_zero h))
  have hb : |raw b| ≤ 2 ^ 63 := abs_le.mpr ⟨raw_lower b, (raw_upper b).le⟩
  rw [response_mod h]
  exact raw_response_unflagged (by omega) (by omega)

theorem response_fmod_zero (a : Word) : response (.fmod a 0) = errResponse .divzero := rfl

theorem response_fmod_intMin_neg_one : response (.fmod (BitVec.intMin 64) (-1)) = errResponse .removf := rfl

/-- Outside the pair that MOD guards, FMOD responds as MOD. -/
theorem response_fmod {a b : Word} (h : b ≠ 0) (hpair : ¬(a = BitVec.intMin 64 ∧ b = -1)) :
    response (.fmod a b) = okResponse (unflagged ((raw a).tmod (raw b))) := by
  have hvalue : fmodValue (raw a) (raw b) = .ok ((raw a).tmod (raw b)) := by
    have hraw : ¬(raw a = minValue ∧ raw b = -1) := by rwa [raw_eq_minValue_iff, raw_eq_neg_one_iff]
    unfold fmodValue
    rw [if_neg (raw_ne_zero h), if_neg hraw, trem_eq_tmod]
  refine response_eq_of_exec fun s => ?_
  change completeValue (fmodValue (raw a) (raw b)) s = _
  rw [hvalue, completeValue_ok]

/-! ### Words of the values -/

theorem wordOf_add_raw (a b : Word) : wordOf (raw a + raw b) = a + b := by
  calc wordOf (raw a + raw b) = wordOf (raw a) + wordOf (raw b) := BitVec.ofInt_add _ _
    _ = a + b := by rw [wordOf_raw, wordOf_raw]

theorem wordOf_neg_raw (a : Word) : wordOf (-raw a) = -a := by
  calc wordOf (-raw a) = -wordOf (raw a) := BitVec.ofInt_neg
    _ = -a := by rw [wordOf_raw]

theorem wordOf_sub_raw (a b : Word) : wordOf (raw a - raw b) = a - b := by
  calc wordOf (raw a - raw b) = wordOf (raw a) + wordOf (-raw b) := BitVec.ofInt_add _ _
    _ = a - b := by rw [wordOf_raw, wordOf_neg_raw, BitVec.sub_eq_add_neg]

/-- The word of the saturating negation, by the one operand that has no negative (R97). -/
theorem wordOf_neg (a : Word) :
    wordOf (neg (raw a)) = if a = BitVec.intMin 64 then BitVec.intMax 64 else -a := by
  unfold neg
  by_cases h : a = BitVec.intMin 64
  · rw [if_pos h, if_pos ((raw_eq_minValue_iff a).mpr h)]
    rfl
  · rw [if_neg h, if_neg (mt (raw_eq_minValue_iff a).mp h), wordOf_neg_raw]

/-- 64 bits from bit 32 of a 128-bit integer are the word of its floored quotient by `2^32`. -/
theorem extractLsb'_ofInt (t : Int) : (BitVec.ofInt 128 t).extractLsb' 32 64 = wordOf (t / 2 ^ 32) := by
  apply BitVec.eq_of_toNat_eq
  rw [BitVec.extractLsb'_toNat, BitVec.toNat_ofInt, Nat.shiftRight_eq_div_pow, wordOf, BitVec.toNat_ofInt]
  omega

/-- The word of the floored product is cut from the exact 128-bit product (R102). -/
theorem wordOf_mul_raw (a b : Word) :
    wordOf (raw a * raw b / 2 ^ 32) = (a.signExtend 128 * b.signExtend 128).extractLsb' 32 64 := by
  calc wordOf (raw a * raw b / 2 ^ 32)
      = (BitVec.ofInt 128 (raw a * raw b)).extractLsb' 32 64 := (extractLsb'_ofInt _).symm
    _ = (a.signExtend 128 * b.signExtend 128).extractLsb' 32 64 := by rw [BitVec.ofInt_mul]; rfl

/-! ### The statements -/

/-- Settles O24: ADD and SUB respond the saturated exact sum and difference. -/
theorem addSubSaturate : Obligations.AddSubSaturate := fun a b s =>
  ⟨exec_of_response_sat (response_add a b) s, exec_of_response_sat (response_sub a b) s⟩

/-- Settles O25: MUL responds the saturated floored product. -/
theorem mulSaturatesFlooredProduct : Obligations.MulSaturatesFlooredProduct := fun a b s =>
  exec_of_response_sat (response_mul a b) s

/-- Settles O26: the magnitude's bounds are `divMagnitude_nearest`, its sign is `divExact_eq_ite`. -/
theorem divRoundsMagnitudeToNearest : Obligations.DivRoundsMagnitudeToNearest := by
  intro a b s
  constructor
  · rintro rfl
    exact exec_of_response_error (response_div_zero a) s
  · intro hb
    obtain ⟨hlower, hupper⟩ := divMagnitude_nearest (raw a) (raw_ne_zero hb)
    exact ⟨divMagnitude (raw a) (raw b), divExact (raw a) (raw b), divMagnitude_nonneg _ _, hlower, hupper,
      divExact_eq_ite _ _, exec_of_response_sat (response_div hb a) s⟩

/-- Settles O27: MOD responds the truncating remainder, which has the dividend's sign and is below the divisor. -/
theorem modIsTruncatingRemainder : Obligations.ModIsTruncatingRemainder := by
  intro a b s
  constructor
  · rintro rfl
    exact exec_of_response_error (response_mod_zero a) s
  · intro hb
    have hres : (response (.mod a b)).res.toInt = trem (raw a) (raw b) :=
      (raw_response_mod hb a).trans (trem_eq_tmod _ _).symm
    refine ⟨exec_of_response_unflagged (response_mod hb a) s, ?_, ?_, ?_⟩
    · intro hneg
      by_contra ha
      have hnonneg : 0 ≤ trem (raw a) (raw b) := trem_nonneg (not_lt.mp ha) _
      omega
    · intro hpos
      by_contra ha
      have hnonpos : trem (raw a) (raw b) ≤ 0 := trem_nonpos (not_lt.mp ha) _
      omega
    · rw [hres, trem_eq_tmod]
      exact abs_tmod_lt _ (raw_ne_zero hb)

/-- Settles O28: NEG's word is `wordOf_neg`; INC and DEC respond what ADD and SUB respond for `one`. -/
theorem negIncDecSaturate : Obligations.NegIncDecSaturate := by
  intro a b s
  refine ⟨?neg, rfl, exec_of_response_sat (response_inc a b) s, rfl, exec_of_response_sat (response_dec a b) s⟩
  case neg =>
    have hflag : (satNeg (raw a)).ovf = decide (a = BitVec.intMin 64) :=
      decide_eq_decide.mpr (raw_eq_minValue_iff a)
    rw [exec_eq_respond, response_neg, respond_eq_answered, okResponse_res, okResponse_ovf, hflag, okResponse_err,
      ← wordOf_neg]
    rfl

/-- Settles O29: the three responses are wrapped integers, whose words are the word operations. -/
theorem fastArithmeticWraps : Obligations.FastArithmeticWraps := by
  intro a b s
  rw [exec_of_response_unflagged (response_fadd a b), exec_of_response_unflagged (response_fsub a b),
    exec_of_response_unflagged (response_fmul a b)]
  simp only [wordOf_wrap, wordOf_add_raw, wordOf_sub_raw, wordOf_mul_raw, and_self]

/-- Settles O30: the two errors, and elsewhere the response of MOD. -/
theorem fmodIsUnguarded : Obligations.FmodIsUnguarded := by
  intro a b s
  refine ⟨?zero, ?pair, ?value⟩
  case zero =>
    rintro rfl
    exact exec_of_response_error (response_fmod_zero a) s
  case pair =>
    rintro ⟨rfl, rfl⟩
    exact exec_of_response_error response_fmod_intMin_neg_one s
  case value =>
    intro hb hpair
    have hmod := exec_of_response_unflagged (response_mod hb a) s
    have hfmod := exec_of_response_unflagged (response_fmod hb hpair) s
    exact ⟨hfmod, hfmod.trans hmod.symm⟩

end Sys2Proof.Proofs
end

section
/-! The informative procedures compute the arithmetic contracts: the sign-bit overflow tests, the four partial
products and restoring long division (spec/41_saturating_arithmetic.md R104 to R106). -/

namespace Sys2Proof.Proofs

open Sys2Proof.Machine

/-! ### The sign-bit overflow tests (R104) -/

/-- The statements' range test on a sum is the library's signed overflow of the words. -/
theorem overflows_add (a b : Word) : overflows (raw a + raw b) = a.saddOverflow b := by
  unfold overflows BitVec.saddOverflow
  rw [← Bool.decide_or, decide_eq_decide]
  exact or_comm

theorem overflows_sub (a b : Word) : overflows (raw a - raw b) = a.ssubOverflow b := by
  unfold overflows BitVec.ssubOverflow
  rw [← Bool.decide_or, decide_eq_decide]
  exact or_comm

/-- A sum overflows exactly when the operands agree in sign and the wrapped sum does not. -/
theorem addOverflowBit_eq_overflows (a b : Word) : addOverflowBit a b = overflows (raw a + raw b) := by
  have hbit : addOverflowBit a b = (!(a.msb ^^ b.msb) && (a.msb ^^ (a + b).msb)) := by
    simp [addOverflowBit, BitVec.msb_eq_getLsbD_last]
  rw [overflows_add, BitVec.saddOverflow_eq, hbit]
  cases a.msb <;> cases b.msb <;> cases (a + b).msb <;> rfl

/-- A difference overflows exactly when the operands differ in sign and the wrapped difference differs in sign
from `a`. -/
theorem subOverflowBit_eq_overflows (a b : Word) : subOverflowBit a b = overflows (raw a - raw b) := by
  have hbit : subOverflowBit a b = ((a.msb ^^ b.msb) && (a.msb ^^ (a - b).msb)) := by
    simp [subOverflowBit, BitVec.msb_eq_getLsbD_last]
  rw [overflows_sub, BitVec.ssubOverflow_eq, hbit]
  cases a.msb <;> cases b.msb <;> cases (a - b).msb <;> rfl

theorem clamp_of_ge {t : Int} (h : 2 ^ 63 ≤ t) : clamp t = maxValue := by
  have hmax : maxValue = 2 ^ 63 - 1 := rfl
  rcases clamp_cases t with ⟨-, e⟩ | ⟨hlow, -⟩ | ⟨-, hupper, -⟩
  · exact e
  · unfold minValue at hlow
    omega
  · omega

theorem clamp_of_le {t : Int} (h : t ≤ -(2 ^ 63)) : clamp t = minValue := by
  have hmin : minValue = -(2 ^ 63) := rfl
  rcases clamp_cases t with ⟨hhigh, -⟩ | ⟨-, e⟩ | ⟨hlower, -, e⟩
  · unfold maxValue at hhigh
    omega
  · exact e
  · omega

/-- Where the exact value is out of range on the side of `a`'s sign, the clamp is the limit of that sign. -/
theorem wordOf_clamp_of_overflows {a : Word} {t : Int} (h : overflows t = true) (hsign : 0 ≤ t ↔ 0 ≤ raw a) :
    wordOf (clamp t) = overflowClamp a := by
  have hout : t < -(2 ^ 63) ∨ 2 ^ 63 ≤ t := of_decide_eq_true h
  unfold overflowClamp
  rcases hout with hlow | hhigh
  · rw [clamp_of_le hlow.le, if_neg (by omega)]
  · rw [clamp_of_ge hhigh, if_pos (by omega)]

theorem clamp_of_not_overflows {t : Int} (h : ¬overflows t = true) : clamp t = t := by
  have hin : ¬(t < -(2 ^ 63) ∨ 2 ^ 63 ≤ t) := mt decide_eq_true h
  exact clamp_of_range (by omega) (by omega)

theorem response_add_res (a b : Word) : (response (.add a b)).res = addBySignBits a b := by
  rw [response_add, okResponse_res, sat_value, addBySignBits, addOverflowBit_eq_overflows]
  split
  · next h =>
    have hout : raw a + raw b < -(2 ^ 63) ∨ 2 ^ 63 ≤ raw a + raw b := of_decide_eq_true h
    have hlower := raw_lower b
    have hupper := raw_upper b
    exact wordOf_clamp_of_overflows h (by omega)
  · next h => rw [clamp_of_not_overflows h, wordOf_add_raw]

theorem response_sub_res (a b : Word) : (response (.sub a b)).res = subBySignBits a b := by
  rw [response_sub, okResponse_res, sat_value, subBySignBits, subOverflowBit_eq_overflows]
  split
  · next h =>
    have hout : raw a - raw b < -(2 ^ 63) ∨ 2 ^ 63 ≤ raw a - raw b := of_decide_eq_true h
    have hlower := raw_lower b
    have hupper := raw_upper b
    exact wordOf_clamp_of_overflows h (by omega)
  · next h => rw [clamp_of_not_overflows h, wordOf_sub_raw]

/-- Settles O37: the tests are the flags, and the sign of `a` tells the side of the overflow. -/
theorem signBitTestComputesAddSub : Obligations.SignBitTestComputesAddSub := by
  intro a b
  refine ⟨response_add_res a b, ?_, response_sub_res a b, ?_⟩
  · rw [response_add, okResponse_ovf, sat_ovf_eq_overflows, addOverflowBit_eq_overflows]
  · rw [response_sub, okResponse_ovf, sat_ovf_eq_overflows, subOverflowBit_eq_overflows]

/-! ### The partial products (R105) -/

theorem highHalf_eq_div (a : Word) : highHalf a = raw a / 2 ^ 32 := by
  have h := BitVec.isLt a
  unfold highHalf raw
  rw [BitVec.toInt_eq_toNat_cond, BitVec.toInt_eq_toNat_cond, BitVec.extractLsb'_toNat, Nat.shiftRight_eq_div_pow]
  split <;> split <;> omega

theorem lowHalf_eq_mod (a : Word) : lowHalf a = raw a % 2 ^ 32 := by
  unfold lowHalf raw
  rw [BitVec.toInt_eq_toNat_cond, BitVec.extractLsb'_toNat, Nat.shiftRight_eq_div_pow]
  split <;> omega

theorem highHalf_mul_add_lowHalf (a : Word) : highHalf a * 2 ^ 32 + lowHalf a = raw a := by
  rw [highHalf_eq_div, lowHalf_eq_mod]
  omega

/-- The high products are multiples of `2^32`, so only the lowest product meets the floor. -/
theorem partialProducts_eq (a b : Word) : partialProducts a b = raw a * raw b / 2 ^ 32 := by
  have hproduct : raw a * raw b = lowHalf a * lowHalf b +
      (highHalf a * highHalf b * 2 ^ 32 + lowHalf a * highHalf b + highHalf a * lowHalf b) * 2 ^ 32 := by
    rw [← highHalf_mul_add_lowHalf a, ← highHalf_mul_add_lowHalf b]
    ring
  rw [hproduct, Int.add_mul_ediv_right _ _ (by decide)]
  exact add_comm _ _

/-- Settles O38: the sum is the floored product that FMUL wraps and MUL clamps. -/
theorem partialProductsComputeMul : Obligations.PartialProductsComputeMul := by
  intro a b
  refine ⟨partialProducts_eq a b, ?_, ?_⟩
  · rw [response_fmul, okResponse_res, unflagged_value, wordOf_wrap, ← partialProducts_eq]
    rfl
  · rw [response_mul, okResponse_res, sat_value, clamp_eq_clampRange, ← partialProducts_eq]
    rfl

/-! ### Restoring division (R106) -/

/-- Dividing the divisor by 16 and lowering the position by 4 keeps the divisor times its power of two. -/
theorem divNibbles_spec (n dv pos : Nat) :
    ∃ dv' k, k ≤ pos ∧ divNibbles n dv pos = (dv', ((pos - k : Nat) : Int)) ∧ dv = dv' * 2 ^ k := by
  induction n generalizing dv pos with
  | zero => exact ⟨dv, 0, by omega, rfl, by simp⟩
  | succ n ih =>
    unfold divNibbles
    split
    · next h =>
      obtain ⟨hmod, hpos⟩ := h
      obtain ⟨dv', k, hk, heq, hdv⟩ := ih (dv / 16) (pos - 4)
      refine ⟨dv', k + 4, by omega, ?_, ?_⟩
      · rw [show (pos : Int) - 4 = ((pos - 4 : Nat) : Int) by omega, heq, Nat.sub_sub, Nat.add_comm 4 k]
      · rw [pow_add, ← mul_assoc, ← hdv]
        omega
    · exact ⟨dv, 0, by omega, rfl, by simp⟩

/-- What the loop at position `k - 1` has still to add to its quotient. The remainder stands one bit above the divisor
there, so that `k = 0` is the loop's end. -/
def pendingQuotient (dv rem k : Nat) : Nat := rem * 2 ^ k / (2 * dv)

theorem pendingQuotient_zero_rem (dv k : Nat) : pendingQuotient dv 0 k = 0 := by
  simp [pendingQuotient]

/-- A remainder that a pass leaves has a pending quotient below the place of the digit before it. -/
theorem pendingQuotient_lt {dv rem : Nat} (h : rem < 2 * dv) (k : Nat) : pendingQuotient dv rem k < 2 ^ k :=
  Nat.div_lt_of_lt_mul (Nat.mul_lt_mul_of_pos_right h (by positivity))

theorem pendingQuotient_end {dv rem : Nat} (h : rem < 2 * dv) : pendingQuotient dv rem 0 = 0 :=
  Nat.lt_one_iff.mp (pendingQuotient_lt h 0)

/-- The places from a digit of `m` bits down, above `p` bits, stay within `m + p` bits. -/
theorem digit_place_le {d m : Nat} (h : d < 2 ^ m) (p : Nat) : d * 2 ^ p + 2 ^ p ≤ 2 ^ (m + p) := by
  calc d * 2 ^ p + 2 ^ p = (d + 1) * 2 ^ p := (Nat.succ_mul d _).symm
    _ ≤ 2 ^ m * 2 ^ p := Nat.mul_le_mul_right _ h
    _ = 2 ^ (m + p) := (pow_add 2 m p).symm

/-- A pass that shifts by `sh` adds the digit of the shifted remainder in its place and leaves the rest pending. -/
theorem pendingQuotient_pass {dv : Nat} (hdv : 0 < dv) (rem sh p : Nat) :
    pendingQuotient dv rem (sh + p + 1) =
      rem * 2 ^ sh / dv * 2 ^ p + pendingQuotient dv (rem * 2 ^ sh % dv * 2) p := by
  have hshift : rem * 2 ^ (sh + p + 1) = 2 * (rem * 2 ^ sh * 2 ^ p) := by ring
  have hrest : rem * 2 ^ sh % dv * 2 * 2 ^ p = 2 * (rem * 2 ^ sh % dv * 2 ^ p) := by ring
  have hsplit : rem * 2 ^ sh * 2 ^ p = rem * 2 ^ sh % dv * 2 ^ p + dv * (rem * 2 ^ sh / dv * 2 ^ p) := by
    conv_lhs => rw [← Nat.mod_add_div (rem * 2 ^ sh) dv]
    ring
  unfold pendingQuotient
  rw [hshift, hrest, Nat.mul_div_mul_left _ _ two_pos, Nat.mul_div_mul_left _ _ two_pos, hsplit,
    Nat.add_mul_div_left _ _ hdv, add_comm]

theorem divLoop_zero_rem (dv n quo : Nat) (pos : Int) : divLoop dv n { rem := 0, quo, pos } = some quo := by
  cases n <;> simp [divLoop]

theorem divLoop_end (dv n rem quo : Nat) : divLoop dv n { rem, quo, pos := -1 } = some quo := by
  cases n <;> simp [divLoop]

/-- One pass: for some shift of the remainder by no more than the position, its digit goes to the quotient or leaves
by the overflow exit. -/
theorem divLoop_pass (dv n quo pos : Nat) {rem : Nat} (h : rem ≠ 0) :
    ∃ sh p, sh + p = pos ∧ divLoop dv (n + 1) { rem, quo, pos } =
      if 2 ^ 64 ≤ rem * 2 ^ sh / dv * 2 ^ p then none
      else divLoop dv n
        { rem := rem * 2 ^ sh % dv * 2, quo := quo + rem * 2 ^ sh / dv * 2 ^ p, pos := (p : Int) - 1 } := by
  refine ⟨min (leadingZeros rem) pos, pos - min (leadingZeros rem) pos, by omega, ?_⟩
  rw [divLoop, if_pos ⟨h, Int.natCast_nonneg pos⟩]
  rfl

/-- From a remainder that a pass has left, the loop adds all that is pending: it has passes enough, and no digit
reaches bit 64. -/
theorem divLoop_of_rem_lt {dv : Nat} (hdv : 0 < dv) (n k rem quo : Nat) (hk : k ≤ n) (hrem : rem < 2 * dv)
    (hquo : quo + 2 ^ k ≤ 2 ^ 64) :
    divLoop dv n { rem, quo, pos := (k : Int) - 1 } = some (quo + pendingQuotient dv rem k) := by
  induction n generalizing k rem quo with
  | zero =>
    obtain rfl : k = 0 := Nat.le_zero.mp hk
    rw [pendingQuotient_end hrem]
    exact divLoop_end dv 0 rem quo
  | succ n ih =>
    rcases Nat.eq_zero_or_pos k with rfl | hpos
    · rw [pendingQuotient_end hrem]
      exact divLoop_end dv (n + 1) rem quo
    rcases eq_or_ne rem 0 with rfl | hne
    · rw [pendingQuotient_zero_rem]
      exact divLoop_zero_rem dv (n + 1) quo _
    obtain ⟨pos, rfl⟩ : ∃ pos, k = pos + 1 := ⟨k - 1, by omega⟩
    obtain ⟨sh, p, rfl, hpass⟩ := divLoop_pass dv n quo pos hne
    have hdigit : rem * 2 ^ sh / dv < 2 ^ (sh + 1) := by
      apply Nat.div_lt_of_lt_mul
      calc rem * 2 ^ sh < 2 * dv * 2 ^ sh := Nat.mul_lt_mul_of_pos_right hrem (by positivity)
        _ = dv * 2 ^ (sh + 1) := by ring
    have hplace : rem * 2 ^ sh / dv * 2 ^ p + 2 ^ p ≤ 2 ^ (sh + p + 1) := by
      rw [add_right_comm]
      exact digit_place_le hdigit p
    have hbit : 0 < 2 ^ p := by positivity
    have hleft := Nat.mod_lt (rem * 2 ^ sh) hdv
    rw [Nat.cast_succ, add_sub_cancel_right, hpass, if_neg (by omega),
      ih p _ _ (by omega) (by omega) (by omega), pendingQuotient_pass hdv, add_assoc]

/-- From the start, with an empty quotient, the loop answers the whole quotient, or leaves by the overflow exit
exactly when that does not fit 64 bits. -/
theorem divLoop_start {dv : Nat} (hdv : 0 < dv) (n rem pos : Nat) (hn : pos ≤ n) (hpos : pos ≤ 64) :
    divLoop dv (n + 1) { rem, quo := 0, pos } =
      if 2 ^ 64 ≤ pendingQuotient dv rem (pos + 1) then none else some (pendingQuotient dv rem (pos + 1)) := by
  rcases eq_or_ne rem 0 with rfl | hne
  · rw [pendingQuotient_zero_rem]
    exact divLoop_zero_rem dv (n + 1) 0 pos
  obtain ⟨sh, p, rfl, hpass⟩ := divLoop_pass dv n 0 pos hne
  have hleft := Nat.mod_lt (rem * 2 ^ sh) hdv
  have hpending := pendingQuotient_lt (dv := dv) (rem := rem * 2 ^ sh % dv * 2) (by omega) p
  have hplaces : 64 - p + p = 64 := Nat.sub_add_cancel (by omega)
  rw [hpass, pendingQuotient_pass hdv]
  by_cases hover : 2 ^ 64 ≤ rem * 2 ^ sh / dv * 2 ^ p
  · rw [if_pos hover, if_pos (by omega)]
  · have hdigit : rem * 2 ^ sh / dv < 2 ^ (64 - p) := by
      rw [← hplaces, pow_add] at hover
      exact Nat.lt_of_mul_lt_mul_right (not_le.mp hover)
    have hplace := digit_place_le hdigit p
    rw [hplaces] at hplace
    rw [if_neg hover, if_neg (by omega),
      divLoop_of_rem_lt hdv n p _ _ (by omega) (by omega) (by omega), zero_add]

/-- The quotient of the magnitudes with one bit more than a raw value has, which R106 extracts. -/
def scaledQuotient (x y : Int) : Nat := x.natAbs * 2 ^ 33 / y.natAbs

/-- The loops extract the scaled quotient, or find that it does not fit 64 bits. -/
theorem divLoop_divNibbles (x : Int) {y : Int} (h : y ≠ 0) :
    divLoop (divNibbles 8 y.natAbs 33).1 34
        { rem := x.natAbs, quo := 0, pos := (divNibbles 8 y.natAbs 33).2 } =
      if 2 ^ 64 ≤ scaledQuotient x y then none else some (scaledQuotient x y) := by
  obtain ⟨dv, k, hk, heq, hdv⟩ := divNibbles_spec 8 y.natAbs 33
  have hpos : 0 < dv := by
    have hy : y.natAbs ≠ 0 := Int.natAbs_ne_zero.mpr h
    rw [hdv] at hy
    exact Nat.pos_of_ne_zero (left_ne_zero_of_mul hy)
  have hquotient : pendingQuotient dv x.natAbs (33 - k + 1) = scaledQuotient x y := by
    have hpow : 2 ^ 33 = 2 ^ (33 - k) * 2 ^ k := by rw [← pow_add, Nat.sub_add_cancel hk]
    unfold pendingQuotient scaledQuotient
    rw [hdv, hpow, pow_succ', Nat.mul_left_comm, Nat.mul_div_mul_left _ _ two_pos, ← mul_assoc,
      Nat.mul_div_mul_right _ _ (by positivity)]
  rw [show (33 : Int) = ((33 : Nat) : Int) from rfl, heq]
  rw [divLoop_start hpos 33 _ _ (by omega) (by omega), hquotient]

/-- The rounded magnitude is half the scaled quotient, rounded up. -/
theorem divMagnitude_eq_half (x : Int) {y : Int} (h : y ≠ 0) :
    divMagnitude x y = ((scaledQuotient x y + 1) / 2 : Nat) := by
  have hpos : 0 < y.natAbs := Int.natAbs_pos.mpr h
  have hsum : 2 * x.natAbs * 2 ^ 32 + y.natAbs = x.natAbs * 2 ^ 33 + y.natAbs := by ring
  have hhalf : (2 * x.natAbs * 2 ^ 32 + y.natAbs) / (2 * y.natAbs) = (scaledQuotient x y + 1) / 2 := by
    unfold scaledQuotient
    rw [hsum, mul_comm 2, ← Nat.div_div_eq_div_mul, Nat.add_div_right _ hpos]
  rw [← hhalf]
  unfold divMagnitude floorDiv magnitude
  push_cast
  rfl

/-- A scaled quotient of 64 bits is not all ones, so that its rounded half fits a raw value: a divisor that left such
a quotient would be above `2^33`, and the dividend above its range. -/
theorem half_scaledQuotient_lt {x y : Int} (hx : x.natAbs ≤ 2 ^ 63) (hy : y ≠ 0) (hquo : scaledQuotient x y < 2 ^ 64) :
    (scaledQuotient x y + 1) / 2 < 2 ^ 63 := by
  have hpos : 0 < y.natAbs := Int.natAbs_pos.mpr hy
  have hlower := Nat.div_mul_le_self (x.natAbs * 2 ^ 33) y.natAbs
  have hupper := Nat.lt_mul_div_succ (x.natAbs * 2 ^ 33) hpos
  change scaledQuotient x y * y.natAbs ≤ _ at hlower
  change _ < y.natAbs * (scaledQuotient x y + 1) at hupper
  by_contra hhalf
  have hones : scaledQuotient x y = 2 ^ 64 - 1 := by omega
  rw [hones] at hlower hupper
  omega

/-- What restoring division answers: the signed rounded half of the scaled quotient, or the limit of its sign. -/
theorem divByRestoring_eq (x : Int) {y : Int} (h : y ≠ 0) :
    divByRestoring x y =
      if 2 ^ 64 ≤ scaledQuotient x y then (if (x < 0 ↔ y < 0) then maxValue else minValue)
      else if (x < 0 ↔ y < 0) then divMagnitude x y else -divMagnitude x y := by
  unfold divByRestoring
  dsimp only
  rw [divLoop_divNibbles x h, divMagnitude_eq_half x h]
  by_cases hover : 2 ^ 64 ≤ scaledQuotient x y
  · simp only [if_pos hover, decide_eq_decide]
  · simp only [if_neg hover, decide_eq_decide]

/-- On the overflow exit the magnitude is at least `2^63`, so DIV clamps too; elsewhere the rounded half is in range. -/
theorem clamp_divExact {x y : Int} (hx : x.natAbs ≤ 2 ^ 63) (hy : y ≠ 0) :
    clamp (divExact x y) = divByRestoring x y := by
  have hmag := divMagnitude_eq_half x hy
  rw [divByRestoring_eq x hy, divExact_eq_ite]
  by_cases hover : 2 ^ 64 ≤ scaledQuotient x y
  · rw [if_pos hover]
    split
    · exact clamp_of_ge (by omega)
    · exact clamp_of_le (by omega)
  · have hhalf := half_scaledQuotient_lt hx hy (not_le.mp hover)
    rw [if_neg hover]
    split
    · exact clamp_of_range (by omega) (by omega)
    · exact clamp_of_range (by omega) (by omega)

/-- Settles O39: restoring division answers the clamped quotient that DIV responds. -/
theorem restoringDivisionComputesDiv : Obligations.RestoringDivisionComputesDiv := by
  intro a b hb
  have hlower := raw_lower a
  have hupper := raw_upper a
  rw [response_div hb, okResponse_res, sat_value, clamp_divExact (by omega) (raw_ne_zero hb)]
  rfl

end Sys2Proof.Proofs
end

section
/-! Rounding and classification: what FLOOR, CEIL, ROUND, TRUNC, SIGN, ABS and FABS respond, on the words and on
their integers (spec/42_rounding_classification.md R121 to R127). -/

namespace Sys2Proof.Proofs

open Sys2Proof.Machine

/-! ### The responses -/

theorem response_ceil (a b : Word) : response (.ceil a b) = okResponse (satCeil (raw a)) := rfl

theorem response_round (a b : Word) : response (.round a b) = okResponse (sat (roundExact (raw a))) := rfl

theorem response_trunc (a b : Word) : response (.trunc a b) = okResponse (unflagged (truncValue (raw a))) := rfl

theorem response_sign (a b : Word) : response (.sign a b) = okResponse (unflagged (sgn (raw a))) := rfl

theorem response_abs (a b : Word) : response (.abs a b) = okResponse (satAbs (raw a)) := rfl

theorem response_fabs (a b : Word) : response (.fabs a b) = okResponse (unflagged (fabs (raw a))) := rfl

/-- A command that cannot raise answers its value's word and its flag, in every state. -/
theorem exec_of_response_ok {i : Instr} {v : Flagged} (h : response i = okResponse v) (s : State) :
    exec i s = .next (answered s (wordOf v.value) v.ovf 0) := by
  rw [exec_eq_respond, h]
  rfl

/-! ### Saturation above and in range -/

theorem sat_of_range {t : Int} (hlower : -(2 ^ 63) ≤ t) (hupper : t < 2 ^ 63) : sat t = unflagged t := by
  have hclamp := clamp_of_range hlower hupper
  simp [sat, unflagged, hclamp]

theorem sat_of_ge {t : Int} (h : 2 ^ 63 ≤ t) : sat t = { value := maxValue, ovf := true } := by
  have hflag : (sat t).ovf = true := (sat_ovf_iff t).mpr (.inr h)
  rw [← hflag, ← clamp_of_ge h]
  rfl

/-! ### The fraction and the integer field of a word -/

/-- The low 32 bits are the fraction (R8). -/
theorem and_lowMask_eq_zero_iff (a : Word) : a &&& 0xFFFFFFFF = 0 ↔ frac (raw a) = 0 := by
  have hlow : frac (raw a) = (a.extractLsb' 0 32).toNat := (lowHalf_eq_mod a).symm
  have hmask : (a &&& 0xFFFFFFFF).toNat = a.toNat % 2 ^ 32 := Nat.and_two_pow_sub_one_eq_mod a.toNat 32
  rw [← BitVec.toNat_inj, hmask, hlow, BitVec.extractLsb'_toNat, Nat.shiftRight_zero]
  exact Int.natCast_eq_zero.symm

/-- The high 32 bits, read as a signed number, are the integer part. -/
theorem highField_eq_max_iff (a : Word) : a.extractLsb' 32 32 = 0x7FFFFFFF ↔ raw a / 2 ^ 32 = 0x7FFFFFFF := by
  rw [← highHalf_eq_div]
  exact BitVec.toInt_inj.symm

/-- Clearing the low 32 bits takes the fraction away (R121). -/
theorem wordOf_floorPart_raw (a : Word) : wordOf (floorPart (raw a)) = a &&& 0xFFFFFFFF00000000 := by
  have hmask : (0xFFFFFFFF00000000 : Word) = BitVec.allOnes 64 <<< 32 := by decide
  have hshift : wordOf (floorPart (raw a)) = a.sshiftRight 32 <<< 32 := by
    rw [floorPart_eq_mul, ← raw_response_toint a 0, wordOf_raw_mul, response_toint, okResponse_res, unflagged_value,
      wordOf_raw_div]
  rw [hshift, hmask]
  ext i hi
  rw [BitVec.getElem_and, BitVec.getElem_shiftLeft, BitVec.getElem_shiftLeft, BitVec.getElem_allOnes,
    BitVec.getElem_sshiftRight]
  by_cases h : i < 32
  · simp [h]
  · have hindex : 32 + (i - 32) = i := by omega
    simp [h, hindex, hi]

/-! ### CEIL (R122) -/

/-- CEIL by its three branches: no fraction, saturation, and the floor plus `one`. -/
theorem satCeil_cases {x : Int} (hlower : -(2 ^ 63) ≤ x) (hupper : x < 2 ^ 63) :
    (frac x = 0 ∧ satCeil x = unflagged x) ∨
      (frac x ≠ 0 ∧ x / 2 ^ 32 = 0x7FFFFFFF ∧ satCeil x = { value := maxValue, ovf := true }) ∨
      (frac x ≠ 0 ∧ x / 2 ^ 32 ≠ 0x7FFFFFFF ∧ satCeil x = unflagged (floorPart x + one)) := by
  have hfloor := floorPart_eq_mul x
  unfold satCeil one
  by_cases hfrac : frac x = 0
  · exact .inl ⟨hfrac, if_pos hfrac⟩
  · rw [if_neg hfrac]
    by_cases htop : x / 2 ^ 32 = 0x7FFFFFFF
    · exact .inr (.inl ⟨hfrac, htop, sat_of_ge (by omega)⟩)
    · exact .inr (.inr ⟨hfrac, htop, sat_of_range (by omega) (by omega)⟩)

/-! ### TRUNC (R124) -/

/-- TRUNC is the quotient truncated toward zero, scaled back. -/
theorem truncValue_eq_tdiv (x : Int) : truncValue x = x.tdiv (2 ^ 32) * 2 ^ 32 := by
  have hdvd : (2 ^ 32 : Int) ∣ x ↔ frac x = 0 := Int.dvd_iff_emod_eq_zero
  have hfloor := floorPart_eq_mul x
  have hsign : Int.sign (2 ^ 32) = 1 := rfl
  rw [Int.tdiv_eq_ediv, hsign]
  simp only [hdvd]
  unfold truncValue one
  split <;> omega

/-- The word CEIL answers, by the same branches (R122). -/
theorem wordOf_satCeil_raw (a : Word) : wordOf (satCeil (raw a)).value =
    if a &&& 0xFFFFFFFF = 0 then a
    else if a.extractLsb' 32 32 = 0x7FFFFFFF then BitVec.intMax 64
    else (a &&& 0xFFFFFFFF00000000) + 0x100000000 := by
  have hzero := and_lowMask_eq_zero_iff a
  have hmax := highField_eq_max_iff a
  rcases satCeil_cases (raw_lower a) (raw_upper a) with ⟨hfrac, e⟩ | ⟨hfrac, htop, e⟩ | ⟨hfrac, htop, e⟩
  · rw [e, if_pos (hzero.mpr hfrac)]
    exact wordOf_raw a
  · rw [e, if_neg (mt hzero.mp hfrac), if_pos (hmax.mpr htop)]
    rfl
  · rw [e, if_neg (mt hzero.mp hfrac), if_neg (mt hmax.mp htop), ← wordOf_floorPart_raw]
    exact BitVec.ofInt_add _ _

/-- CEIL's flag is up exactly on the saturating branch. -/
theorem satCeil_raw_ovf (a : Word) : (satCeil (raw a)).ovf =
    decide (a.extractLsb' 32 32 = 0x7FFFFFFF ∧ a &&& 0xFFFFFFFF ≠ 0) := by
  simp only [ne_eq, and_lowMask_eq_zero_iff, highField_eq_max_iff]
  rcases satCeil_cases (raw_lower a) (raw_upper a) with ⟨hfrac, e⟩ | ⟨hfrac, htop, e⟩ | ⟨hfrac, htop, e⟩
  · rw [e, decide_eq_false (fun h => h.2 hfrac)]
    rfl
  · rw [e, decide_eq_true ⟨htop, hfrac⟩]
  · rw [e, decide_eq_false (fun h => htop h.1)]
    rfl

/-- Settles O31: the masks are the floor and the fraction, and CEIL's branches are `satCeil_cases`. -/
theorem floorCeilTrunc : Obligations.FloorCeilTrunc := by
  intro a b s
  refine ⟨?floor, ?ceil, ?trunc⟩
  case floor => rw [exec_of_response_unflagged (response_floor a b), wordOf_floorPart_raw]
  case ceil => rw [exec_of_response_ok (response_ceil a b), wordOf_satCeil_raw, satCeil_raw_ovf]
  case trunc =>
    rw [exec_of_response_unflagged (response_trunc a b), truncValue_eq_tdiv]
    rfl

/-! ### ROUND (R123) -/

/-- Which way rounding goes: down from the lower half and up from the upper half, a tie to the even integer. -/
theorem roundExact_down_or_up (x : Int) :
    (roundExact x = x / 2 ^ 32 * 2 ^ 32 ∧ (x % 2 ^ 32 < 2 ^ 31 ∨ x % 2 ^ 32 = 2 ^ 31 ∧ x / 2 ^ 32 % 2 = 0)) ∨
      (roundExact x = (x / 2 ^ 32 + 1) * 2 ^ 32 ∧
        (2 ^ 31 < x % 2 ^ 32 ∨ x % 2 ^ 32 = 2 ^ 31 ∧ x / 2 ^ 32 % 2 = 1)) := by
  have hodd : oddInteger x = true ↔ x / 2 ^ 32 % 2 = 1 := decide_eq_true_iff
  unfold roundExact
  simp only [floorPart_eq_mul, frac, one, hodd]
  split
  · omega
  split
  · omega
  split <;> omega

/-- The rounded value is the multiple of `one` nearest to the operand; where two are, its integer is even. -/
theorem roundExact_nearest_even (x : Int) :
    ∃ n, roundExact x = n * 2 ^ 32 ∧ |2 * (n * 2 ^ 32 - x)| ≤ 2 ^ 32 ∧
      (|2 * (n * 2 ^ 32 - x)| = 2 ^ 32 → n % 2 = 0) := by
  rcases roundExact_down_or_up x with ⟨e, h⟩ | ⟨e, h⟩
  · refine ⟨x / 2 ^ 32, e, ?_⟩
    rw [abs_le, abs_eq (by decide)]
    omega
  · refine ⟨x / 2 ^ 32 + 1, e, ?_⟩
    rw [abs_le, abs_eq (by decide)]
    omega

/-- From half of `one` below `2^63` up, the nearest multiple is out of range: the last integer is odd, so even the
tie goes up. -/
theorem sat_roundExact_of_ge {x : Int} (h : 0x7FFFFFFF80000000 ≤ x) (hupper : x < 2 ^ 63) :
    sat (roundExact x) = { value := maxValue, ovf := true } := by
  apply sat_of_ge
  rcases roundExact_down_or_up x with ⟨e, hhalf⟩ | ⟨e, hhalf⟩ <;> omega

theorem roundExact_range {x : Int} (hlower : -(2 ^ 63) ≤ x) (h : x < 0x7FFFFFFF80000000) :
    -(2 ^ 63) ≤ roundExact x ∧ roundExact x < 2 ^ 63 := by
  rcases roundExact_down_or_up x with ⟨e, hhalf⟩ | ⟨e, hhalf⟩ <;> omega

theorem sat_roundExact_of_lt {x : Int} (hlower : -(2 ^ 63) ≤ x) (h : x < 0x7FFFFFFF80000000) :
    sat (roundExact x) = unflagged (roundExact x) := by
  obtain ⟨hmin, hmax⟩ := roundExact_range hlower h
  exact sat_of_range hmin hmax

/-- Settles O32: ROUND responds the saturated `roundExact`, in range exactly below `2^63 - 2^31`. -/
theorem roundHalfToEven : Obligations.RoundHalfToEven := by
  intro a b s
  refine ⟨fun hge => ?_, fun hlt => ?_⟩
  · rw [exec_of_response_ok (response_round a b), sat_roundExact_of_ge (x := raw a) hge (raw_upper a)]
    rfl
  · obtain ⟨n, hn, hnear, htie⟩ := roundExact_nearest_even (raw a)
    refine ⟨n, hnear, htie, ?_⟩
    rw [exec_of_response_ok (response_round a b), sat_roundExact_of_lt (raw_lower a) hlt, hn]
    rfl

/-! ### SIGN, ABS and FABS (R125 to R127) -/

theorem sgn_eq_sign (x : Int) : sgn x = x.sign := by
  unfold sgn
  rcases lt_trichotomy x 0 with hneg | hzero | hpos
  · rw [if_pos hneg, Int.sign_eq_neg_one_of_neg hneg]
  · simp [hzero]
  · rw [if_neg hpos.not_gt, if_neg hpos.ne', Int.sign_eq_one_of_pos hpos]

/-- The one magnitude out of range is that of `MinValue`, so ABS is the clamped magnitude. -/
theorem absSat_eq_clampRange {x : Int} (hlower : -(2 ^ 63) ≤ x) (hupper : x < 2 ^ 63) :
    absSat x = clampRange |x| := by
  unfold absSat
  split
  · next h =>
    rw [h]
    decide
  · next h =>
    have hne : x ≠ -(2 ^ 63) := h
    have habs : |x| < 2 ^ 63 := abs_lt.mpr ⟨by omega, hupper⟩
    rw [magnitude_eq_abs, ← clamp_eq_clampRange, clamp_of_range (by linarith [abs_nonneg x]) habs]

/-- The sign mask negates a negative word and leaves the others (R127). -/
theorem signMask_eq_ite (v : Word) : signMask v = if raw v < 0 then -v else v := by
  have hlower := raw_lower v
  have hupper := raw_upper v
  have hshift : raw (v.sshiftRight 63) = raw v / 2 ^ 63 := by
    unfold raw
    rw [BitVec.toInt_sshiftRight, Int.shiftRight_eq_div_pow]
    rfl
  unfold signMask
  split
  · next hneg =>
    have hmask : v.sshiftRight 63 = BitVec.allOnes 64 := (raw_eq_neg_one_iff _).mp (by omega)
    calc (v + v.sshiftRight 63) ^^^ v.sshiftRight 63
        = ~~~(v - 1#64) := by rw [hmask, BitVec.xor_allOnes, BitVec.sub_eq_add_neg]; rfl
      _ = -v := by rw [BitVec.not_sub_one_eq_not_add_one, BitVec.neg_eq_not_add]
  · next hnonneg =>
    have hmask : v.sshiftRight 63 = 0 := (raw_eq_zero_iff _).mp (by omega)
    rw [hmask]
    simp

theorem wordOf_fabs_raw (a : Word) : wordOf (fabs (raw a)) = wordOf |raw a| := by
  have hword : wordOf (fabs (raw a)) = signMask a := by
    unfold fabs
    rw [wordOf_raw]
    exact wordOf_raw _
  rw [hword, signMask_eq_ite]
  split
  · next h => rw [abs_of_neg h, wordOf_neg_raw]
  · next h => rw [abs_of_nonneg (not_lt.mp h), wordOf_raw]

/-- Settles O33: SIGN responds `sgn`, ABS the clamped magnitude, FABS the wrapped one. -/
theorem signAbsFabs : Obligations.SignAbsFabs := by
  intro a b s
  refine ⟨?sign, ?abs, ?fabs⟩
  case sign =>
    rw [exec_of_response_unflagged (response_sign a b), sgn_eq_sign]
    rfl
  case abs =>
    have hflag : (satAbs (raw a)).ovf = decide (a = BitVec.intMin 64) :=
      decide_eq_decide.mpr (raw_eq_minValue_iff a)
    have hvalue : (satAbs (raw a)).value = clampRange |raw a| := absSat_eq_clampRange (raw_lower a) (raw_upper a)
    rw [exec_of_response_ok (response_abs a b), hvalue, hflag]
    rfl
  case fabs =>
    rw [exec_of_response_unflagged (response_fabs a b), wordOf_fabs_raw]
    rfl

end Sys2Proof.Proofs
end

section
/-! The laws of the rounding and classification commands (spec/42_rounding_classification.md R128): order, idempotence,
integral operands, negation, and the commands that other commands express. -/

namespace Sys2Proof.Proofs

open Sys2Proof.Machine

/-! ### The integers of the responses -/

theorem raw_response_floor (a b : Word) : raw (response (.floor a b)).res = floorPart (raw a) := by
  have hlower := raw_lower a
  have hupper := raw_upper a
  have hfloor := floorPart_eq_mul (raw a)
  rw [response_floor]
  exact raw_response_unflagged (by omega) (by omega)

/-- TRUNC never saturates: a value it raises by `one` is negative (R124). -/
theorem raw_response_trunc (a b : Word) : raw (response (.trunc a b)).res = truncValue (raw a) := by
  have hlower := raw_lower a
  have hupper := raw_upper a
  have hfloor := floorPart_eq_mul (raw a)
  obtain ⟨hmin, hmax⟩ : -(2 ^ 63) ≤ truncValue (raw a) ∧ truncValue (raw a) < 2 ^ 63 := by
    unfold truncValue one
    split <;> omega
  rw [response_trunc]
  exact raw_response_unflagged hmin hmax

/-- Below its saturation ROUND's value reads back from its word (R123). -/
theorem raw_response_round {a : Word} (h : raw a < 0x7FFFFFFF80000000) (b : Word) :
    raw (response (.round a b)).res = roundExact (raw a) := by
  obtain ⟨hmin, hmax⟩ := roundExact_range (raw_lower a) h
  rw [response_round, sat_roundExact_of_lt (raw_lower a) h]
  exact raw_response_unflagged hmin hmax

/-- Unsaturated, CEIL answers an integral operand itself and `one` above the floor of any other (R122). -/
theorem raw_response_ceil {a b : Word} (h : (response (.ceil a b)).ovf = false) :
    (frac (raw a) = 0 ∧ raw (response (.ceil a b)).res = raw a) ∨
      (frac (raw a) ≠ 0 ∧ raw a / 2 ^ 32 ≠ 0x7FFFFFFF ∧ raw (response (.ceil a b)).res = floorPart (raw a) + one) := by
  have hlower := raw_lower a
  have hupper := raw_upper a
  have hfloor := floorPart_eq_mul (raw a)
  rw [response_ceil] at h ⊢
  rcases satCeil_cases hlower hupper with ⟨hfrac, e⟩ | ⟨hfrac, htop, e⟩ | ⟨hfrac, htop, e⟩
  · rw [e]
    exact .inl ⟨hfrac, raw_response_unflagged hlower hupper⟩
  · rw [e] at h
    cases h
  · rw [e]
    unfold one
    exact .inr ⟨hfrac, htop, raw_response_unflagged (by omega) (by omega)⟩

/-- Away from `MinValue` NEG answers the exact negative (R97). -/
theorem raw_response_neg {a : Word} (h : raw a ≠ minValue) (b : Word) : raw (response (.neg a b)).res = -raw a := by
  have hlower := raw_lower a
  have hupper := raw_upper a
  have hmin : minValue = -(2 ^ 63) := rfl
  have hvalue : (satNeg (raw a)).value = -raw a := if_neg h
  rw [response_neg, okResponse_res, hvalue]
  exact raw_wordOf (by omega) (by omega)

/-! ### Order -/

theorem floor_le_trunc (a b : Word) : raw (response (.floor a b)).res ≤ raw (response (.trunc a b)).res := by
  rw [raw_response_floor, raw_response_trunc]
  unfold truncValue one
  split <;> omega

/-- Where CEIL is unsaturated so is ROUND, and it goes down to the floor or up to CEIL's value. -/
theorem floor_le_round_le_ceil {a b : Word} (h : (response (.ceil a b)).ovf = false) :
    raw (response (.floor a b)).res ≤ raw (response (.round a b)).res ∧
      raw (response (.round a b)).res ≤ raw (response (.ceil a b)).res := by
  have hupper := raw_upper a
  have hfloor := floorPart_eq_mul (raw a)
  have hfrac : frac (raw a) = raw a % 2 ^ 32 := rfl
  have hone : one = 2 ^ 32 := rfl
  have hceil := raw_response_ceil h
  have hround := raw_response_round (a := a) (by omega) b
  rw [raw_response_floor, hround]
  rcases roundExact_down_or_up (raw a) with ⟨e, hhalf⟩ | ⟨e, hhalf⟩ <;> omega

theorem ceil_sub_floor {a b : Word} (h : (response (.ceil a b)).ovf = false) :
    raw (response (.ceil a b)).res - raw (response (.floor a b)).res = if a &&& 0xFFFFFFFF = 0 then 0 else 2 ^ 32 := by
  rw [raw_response_floor]
  rcases raw_response_ceil h with ⟨hfrac, e⟩ | ⟨hfrac, -, e⟩
  · rw [if_pos ((and_lowMask_eq_zero_iff a).mpr hfrac), e]
    simp [floorPart, hfrac]
  · rw [if_neg (mt (and_lowMask_eq_zero_iff a).mp hfrac), e]
    simp [one]

/-! ### Integral operands -/

theorem floor_of_integral {a : Word} (h : frac (raw a) = 0) (b : Word) : (response (.floor a b)).res = a := by
  have hvalue : floorPart (raw a) = raw a := by simp [floorPart, h]
  rw [response_floor, hvalue, okResponse_res, unflagged_value, wordOf_raw]

theorem ceil_of_integral {a : Word} (h : frac (raw a) = 0) (b : Word) : (response (.ceil a b)).res = a := by
  have hvalue : satCeil (raw a) = unflagged (raw a) := if_pos h
  rw [response_ceil, hvalue, okResponse_res, unflagged_value, wordOf_raw]

theorem round_of_integral {a : Word} (h : frac (raw a) = 0) (b : Word) : (response (.round a b)).res = a := by
  have hvalue : roundExact (raw a) = raw a := by simp [roundExact, floorPart, h]
  rw [response_round, hvalue, okResponse_res, sat_value, clamp_of_range (raw_lower a) (raw_upper a), wordOf_raw]

theorem trunc_of_integral {a : Word} (h : frac (raw a) = 0) (b : Word) : (response (.trunc a b)).res = a := by
  have hvalue : truncValue (raw a) = raw a := by simp [truncValue, floorPart, h]
  rw [response_trunc, hvalue, okResponse_res, unflagged_value, wordOf_raw]

/-! ### Idempotence: a rounding answers an integral value, or `MaxValue` where it saturates -/

theorem frac_mul (k : Int) : frac (k * 2 ^ 32) = 0 := Int.mul_emod_left k _

theorem frac_response_floor (a b : Word) : frac (raw (response (.floor a b)).res) = 0 := by
  rw [raw_response_floor, floorPart_eq_mul, frac_mul]

theorem frac_response_trunc (a b : Word) : frac (raw (response (.trunc a b)).res) = 0 := by
  rw [raw_response_trunc, truncValue_eq_tdiv, frac_mul]

theorem response_ceil_intMax_or_integral (a b : Word) :
    (response (.ceil a b)).res = BitVec.intMax 64 ∨ frac (raw (response (.ceil a b)).res) = 0 := by
  by_cases hovf : (response (.ceil a b)).ovf = false
  · right
    rcases raw_response_ceil hovf with ⟨hfrac, e⟩ | ⟨-, -, e⟩
    · rw [e, hfrac]
    · have hmul : floorPart (raw a) + one = (raw a / 2 ^ 32 + 1) * 2 ^ 32 := by
        rw [floorPart_eq_mul, add_mul]
        rfl
      rw [e, hmul, frac_mul]
  · left
    rw [response_ceil] at hovf ⊢
    rcases satCeil_cases (raw_lower a) (raw_upper a) with ⟨-, e⟩ | ⟨-, -, e⟩ | ⟨-, -, e⟩
    · exact absurd (by rw [e]; rfl) hovf
    · rw [e]
      rfl
    · exact absurd (by rw [e]; rfl) hovf

theorem response_round_intMax_or_integral (a b : Word) :
    (response (.round a b)).res = BitVec.intMax 64 ∨ frac (raw (response (.round a b)).res) = 0 := by
  by_cases h : raw a < 0x7FFFFFFF80000000
  · obtain ⟨k, hk, -⟩ := roundExact_nearest_even (raw a)
    rw [raw_response_round h, hk, frac_mul]
    exact .inr rfl
  · left
    rw [response_round, sat_roundExact_of_ge (not_lt.mp h) (raw_upper a)]
    rfl

theorem floor_floor (a b b' : Word) :
    (response (.floor (response (.floor a b)).res b')).res = (response (.floor a b)).res :=
  floor_of_integral (frac_response_floor a b) b'

theorem ceil_ceil (a b b' : Word) :
    (response (.ceil (response (.ceil a b)).res b')).res = (response (.ceil a b)).res := by
  rcases response_ceil_intMax_or_integral a b with hmax | hint
  · rw [hmax]
    rfl
  · exact ceil_of_integral hint b'

theorem round_round (a b b' : Word) :
    (response (.round (response (.round a b)).res b')).res = (response (.round a b)).res := by
  rcases response_round_intMax_or_integral a b with hmax | hint
  · rw [hmax]
    rfl
  · exact round_of_integral hint b'

theorem trunc_trunc (a b b' : Word) :
    (response (.trunc (response (.trunc a b)).res b')).res = (response (.trunc a b)).res :=
  trunc_of_integral (frac_response_trunc a b) b'

/-! ### Negation -/

theorem truncValue_neg (x : Int) : truncValue (-x) = -truncValue x := by
  rw [truncValue_eq_tdiv, truncValue_eq_tdiv, Int.neg_tdiv, neg_mul]

/-- Rounding is symmetric about 0, because ties go to the even integer on both sides (R123). -/
theorem roundExact_neg (x : Int) : roundExact (-x) = -roundExact x := by
  rcases roundExact_down_or_up x with ⟨e, h⟩ | ⟨e, h⟩ <;>
    rcases roundExact_down_or_up (-x) with ⟨e', h'⟩ | ⟨e', h'⟩ <;> omega

/-- TRUNC goes up from a negative value, so only `MinValue` itself is truncated to it. -/
theorem truncValue_ne_minValue {x : Int} (hlower : -(2 ^ 63) ≤ x) (h : x ≠ minValue) : truncValue x ≠ minValue := by
  have hfloor := floorPart_eq_mul x
  have hfrac : frac x = x % 2 ^ 32 := rfl
  unfold truncValue one
  unfold minValue at h ⊢
  split <;> omega

theorem trunc_neg {a : Word} (h : a ≠ BitVec.intMin 64) (b b' : Word) :
    (response (.trunc (response (.neg a b)).res b')).res = (response (.neg (response (.trunc a b)).res b')).res := by
  have ha : raw a ≠ minValue := mt (raw_eq_minValue_iff a).mp h
  have htrunc := raw_response_trunc a b
  have hne : raw (response (.trunc a b)).res ≠ minValue := by
    rw [htrunc]
    exact truncValue_ne_minValue (raw_lower a) ha
  apply BitVec.eq_of_toInt_eq
  change raw _ = raw _
  rw [raw_response_trunc, raw_response_neg ha, truncValue_neg, raw_response_neg hne, htrunc]

theorem round_neg {a : Word} (h : |raw a| < 0x7FFFFFFF80000000) (b b' : Word) :
    (response (.round (response (.neg a b)).res b')).res = (response (.neg (response (.round a b)).res b')).res := by
  obtain ⟨hlower, hupper⟩ := abs_lt.mp h
  have hmin : minValue = -(2 ^ 63) := rfl
  have hneg : raw (response (.neg a b)).res = -raw a := raw_response_neg (by omega) b
  have hround : raw (response (.round a b)).res = roundExact (raw a) := raw_response_round hupper b
  have hne : raw (response (.round a b)).res ≠ minValue := by
    rcases roundExact_down_or_up (raw a) with ⟨e, hhalf⟩ | ⟨e, hhalf⟩ <;> omega
  apply BitVec.eq_of_toInt_eq
  change raw _ = raw _
  rw [raw_response_round (by omega), hneg, roundExact_neg, raw_response_neg hne, hround]

/-! ### Commands that other commands express -/

theorem response_sign_eq_cmp (a b : Word) : response (.sign a b) = response (.cmp a 0) := rfl

theorem abs_of_raw_nonneg {a : Word} (h : 0 ≤ raw a) (b : Word) : (response (.abs a b)).res = a := by
  have hne : raw a ≠ minValue := by
    unfold minValue
    omega
  have hvalue : (satAbs (raw a)).value = raw a := by
    rw [satAbs, absSat, if_neg hne, magnitude_eq_abs, abs_of_nonneg h]
  rw [response_abs, okResponse_res, hvalue, wordOf_raw]

theorem response_abs_of_neg {a : Word} (h : raw a < 0) (b b' : Word) :
    response (.abs a b) = response (.neg a b') := by
  have hvalue : absSat (raw a) = neg (raw a) := by rw [absSat, neg, magnitude_eq_abs, abs_of_neg h]
  rw [response_abs, response_neg, satAbs, satNeg, hvalue]

/-- Settles O34: one lemma per law of R128. -/
theorem roundingLaws : Obligations.RoundingLaws := by
  refine ⟨floor_le_trunc, ?bounds, ?idempotent, ?integral, fun _ b b' h => trunc_neg h b b',
    fun _ b b' h => round_neg h b b', fun a b b' => (fromint_toint a b b' b).symm, response_sign_eq_cmp,
    fun _ b b' => ⟨fun h => abs_of_raw_nonneg h b, fun h => response_abs_of_neg h b b'⟩⟩
  case bounds =>
    intro a b h
    obtain ⟨hfloor, hceil⟩ := floor_le_round_le_ceil h
    exact ⟨hfloor, hceil, ceil_sub_floor h⟩
  case idempotent =>
    intro a b b'
    exact ⟨floor_floor a b b', ceil_ceil a b b', round_round a b b', trunc_trunc a b b'⟩
  case integral =>
    intro a b h
    have hfrac := (and_lowMask_eq_zero_iff a).mp h
    exact ⟨floor_of_integral hfrac b, ceil_of_integral hfrac b, round_of_integral hfrac b, trunc_of_integral hfrac b⟩

end Sys2Proof.Proofs
end

section
/-! SQRT: the integer nearest to a root, characterised by what lies above it, and what SQRT responds
(spec/43_sqrt.md R136, R137). -/

namespace Sys2Proof.Proofs

open Sys2Proof.Machine

/-! ### The integer nearest to a root -/

/-- The integer nearest to the root of `n`. There are no ties, because `(r + 1/2)²` is never an integer (R136). -/
def nearestRoot (n : Nat) : Nat := if n.sqrt < n - n.sqrt * n.sqrt then n.sqrt + 1 else n.sqrt

theorem le_nearestRoot_mul_add (n : Nat) : n ≤ nearestRoot n * nearestRoot n + nearestRoot n := by
  have hupper := Nat.sqrt_le_add n
  unfold nearestRoot
  split
  · nlinarith
  · omega

theorem nearestRoot_mul_lt (n : Nat) (h : nearestRoot n ≠ 0) : nearestRoot n * nearestRoot n < n + nearestRoot n := by
  have hlower := Nat.sqrt_le n
  unfold nearestRoot at h ⊢
  split
  · next hround =>
    have hexceeds : n.sqrt + n.sqrt * n.sqrt < n := Nat.add_lt_of_lt_sub hround
    nlinarith
  · next hround =>
    rw [if_neg hround] at h
    omega

/-- The nearest root is the least `r` whose half-integer `r + 1/2` is above the root. -/
theorem nearestRoot_le_iff (n r : Nat) : nearestRoot n ≤ r ↔ n ≤ r * r + r := by
  constructor
  · intro h
    exact (le_nearestRoot_mul_add n).trans (Nat.add_le_add (Nat.mul_self_le_mul_self h) h)
  · intro h
    by_contra hlt
    obtain ⟨k, hk⟩ := Nat.exists_eq_add_of_lt (not_le.mp hlt)
    have hbelow := nearestRoot_mul_lt n (by omega)
    rw [hk] at hbelow
    nlinarith

theorem lt_nearestRoot_iff (n r : Nat) : r < nearestRoot n ↔ r * r + r < n := by
  rw [← not_le, nearestRoot_le_iff, not_le]

theorem nearestRoot_eq_succ {n r : Nat} (hlower : r * r + r < n) (hupper : n ≤ (r + 1) * (r + 1) + (r + 1)) :
    nearestRoot n = r + 1 :=
  le_antisymm ((nearestRoot_le_iff n _).mpr hupper) ((lt_nearestRoot_iff n r).mpr hlower)

theorem nearestRoot_mono {m n : Nat} (h : m ≤ n) : nearestRoot m ≤ nearestRoot n :=
  (nearestRoot_le_iff m _).mpr (h.trans (le_nearestRoot_mul_add n))

theorem nearestRoot_mul_self (v : Nat) : nearestRoot (v * v) = v := by
  cases v with
  | zero => exact Nat.le_zero.mp ((nearestRoot_le_iff 0 0).mpr le_rfl)
  | succ w => exact nearestRoot_eq_succ (by nlinarith) (Nat.le_add_right _ _)

/-- The nearest root is less than a half away from the root, in integers. -/
theorem nearestRoot_bounds (n : Nat) :
    4 * (n : Int) < (2 * (nearestRoot n : Int) + 1) ^ 2 ∧
      (nearestRoot n ≠ 0 → (2 * (nearestRoot n : Int) - 1) ^ 2 < 4 * (n : Int)) := by
  constructor
  · have hupper : (n : Int) ≤ nearestRoot n * nearestRoot n + nearestRoot n := mod_cast le_nearestRoot_mul_add n
    nlinarith
  · intro h
    have hlower : (nearestRoot n : Int) * nearestRoot n < n + nearestRoot n := mod_cast nearestRoot_mul_lt n h
    nlinarith

/-! ### What SQRT responds -/

theorem isqrt_eq_sqrt {n : Nat} (h : n < 2 ^ 128) : isqrt n = n.sqrt := Nat.eq_sqrt.mpr (isqrt_spec h)

/-- The model's rounded root is the integer nearest to the root of the scaled operand. -/
theorem sqrtValue_natCast {x : Nat} (h : x < 2 ^ 63) : sqrtValue x = nearestRoot (x * 2 ^ 32) := by
  have hscaled : ((x : Int) * 2 ^ 32).toNat = x * 2 ^ 32 := Int.toNat_natCast (x * 2 ^ 32)
  unfold sqrtValue nearestRoot
  dsimp only
  rw [hscaled, isqrt_eq_sqrt (by omega), Nat.cast_ite]
  rfl

theorem natCast_toNat_of_raw_nonneg {a : Word} (h : 0 ≤ raw a) : (a.toNat : Int) = raw a := by
  have hlt := BitVec.isLt a
  unfold raw at h ⊢
  rw [BitVec.toInt_eq_toNat_cond] at h ⊢
  split at h <;> omega

theorem toNat_lt_of_raw_nonneg {a : Word} (h : 0 ≤ raw a) : a.toNat < 2 ^ 63 := by
  have hcast := natCast_toNat_of_raw_nonneg h
  have hupper := raw_upper a
  omega

theorem response_sqrt_of_neg {a : Word} (h : raw a < 0) (b : Word) : response (.sqrt a b) = errResponse .domain := by
  have hvalue : sqrt (raw a) = .error .domain := if_pos h
  refine response_eq_of_exec fun s => ?_
  change completeValue (sqrt (raw a)) s = _
  rw [hvalue]
  rfl

theorem response_sqrt {a : Word} (h : 0 ≤ raw a) (b : Word) :
    response (.sqrt a b) = okResponse (unflagged (nearestRoot (a.toNat * 2 ^ 32))) := by
  have hvalue : sqrt (raw a) = .ok (nearestRoot (a.toNat * 2 ^ 32) : Int) := by
    rw [sqrt, if_neg (not_lt.mpr h), ← natCast_toNat_of_raw_nonneg h, sqrtValue_natCast (toNat_lt_of_raw_nonneg h)]
  refine response_eq_of_exec fun s => ?_
  change completeValue (sqrt (raw a)) s = _
  rw [hvalue, completeValue_ok]

theorem response_sqrt_res {a : Word} (h : 0 ≤ raw a) (b : Word) :
    (response (.sqrt a b)).res = BitVec.ofNat 64 (nearestRoot (a.toNat * 2 ^ 32)) := by
  rw [response_sqrt h]
  exact BitVec.ofInt_natCast _ _

/-- The largest root, that of `MaxValue` (R137). -/
theorem nearestRoot_scaled_le {x : Nat} (h : x < 2 ^ 63) : nearestRoot (x * 2 ^ 32) ≤ 0x0000B504F333F9DE :=
  (nearestRoot_le_iff _ _).mpr (by omega)

theorem raw_response_sqrt {a : Word} (h : 0 ≤ raw a) (b : Word) :
    raw (response (.sqrt a b)).res = nearestRoot (a.toNat * 2 ^ 32) := by
  have hmax := nearestRoot_scaled_le (toNat_lt_of_raw_nonneg h)
  rw [response_sqrt h]
  exact raw_response_unflagged (by omega) (by omega)

/-- Settles O35: SQRT answers the nearest root, which lies between its half-integers. -/
theorem sqrtRoundsToNearest : Obligations.SqrtRoundsToNearest := by
  intro a b s
  constructor
  · intro h
    exact exec_of_response_error (response_sqrt_of_neg h b) s
  · intro h
    have hscaled : ((a.toNat * 2 ^ 32 : Nat) : Int) = a.toInt * 2 ^ 32 :=
      congrArg (· * 2 ^ 32) (natCast_toNat_of_raw_nonneg h)
    obtain ⟨hupper, hlower⟩ := nearestRoot_bounds (a.toNat * 2 ^ 32)
    rw [hscaled] at hupper hlower
    refine ⟨nearestRoot (a.toNat * 2 ^ 32), hupper, hlower, ?_⟩
    rw [exec_of_response_unflagged (response_sqrt h b), wordOf, BitVec.ofInt_natCast]

/-! ### Range, order and exactness (R137) -/

theorem raw_response_sqrt_range {a : Word} (h : 0 ≤ raw a) (b : Word) :
    0 ≤ raw (response (.sqrt a b)).res ∧ raw (response (.sqrt a b)).res ≤ 0x0000B504F333F9DE := by
  have hmax := nearestRoot_scaled_le (toNat_lt_of_raw_nonneg h)
  rw [raw_response_sqrt h]
  omega

theorem response_mul_ovf (a b : Word) : (response (.mul a b)).ovf = overflows (raw a * raw b / 2 ^ 32) := by
  rw [response_mul, okResponse_ovf, sat_ovf_eq_overflows]

theorem response_mul_ovf_of_le_maxRoot {v w : Word} (hv0 : 0 ≤ raw v) (hv : raw v ≤ 0x0000B504F333F9DE)
    (hw0 : 0 ≤ raw w) (hw : raw w ≤ 0x0000B504F333F9DE) : (response (.mul v w)).ovf = false := by
  have hproduct0 : 0 ≤ raw v * raw w := mul_nonneg hv0 hw0
  have hproduct : raw v * raw w ≤ 0x0000B504F333F9DE * 0x0000B504F333F9DE := mul_le_mul hv hw hw0 (by decide)
  rw [response_mul_ovf]
  exact decide_eq_false (by omega)

theorem raw_response_sqrt_mono {a a' : Word} (h : 0 ≤ raw a) (hle : raw a ≤ raw a') (b : Word) :
    raw (response (.sqrt a b)).res ≤ raw (response (.sqrt a' b)).res := by
  have ha := natCast_toNat_of_raw_nonneg h
  have ha' := natCast_toNat_of_raw_nonneg (h.trans hle)
  rw [raw_response_sqrt h, raw_response_sqrt (h.trans hle)]
  exact mod_cast nearestRoot_mono (Nat.mul_le_mul_right _ (by omega))

theorem raw_response_mul_of_not_overflows {v w : Word} (h : (response (.mul v w)).ovf = false) :
    raw (response (.mul v w)).res = raw v * raw w / 2 ^ 32 := by
  rw [response_mul_ovf] at h
  have hin : ¬(raw v * raw w / 2 ^ 32 < -(2 ^ 63) ∨ 2 ^ 63 ≤ raw v * raw w / 2 ^ 32) := of_decide_eq_false h
  rw [response_mul, okResponse_res, sat_value, clamp_of_not_overflows (Bool.eq_false_iff.mp h)]
  exact raw_wordOf (by omega) (by omega)

/-- Where MUL drops no bit and does not saturate, the scaled operand of SQRT is the exact square. -/
theorem sqrt_mul_self {v : Word} (h : 0 ≤ raw v) (hexact : raw v * raw v % 2 ^ 32 = 0)
    (hovf : (response (.mul v v)).ovf = false) (b : Word) :
    (response (.sqrt (response (.mul v v)).res b)).res = v := by
  have hsquare : 0 ≤ raw v * raw v := mul_self_nonneg _
  have hraw := raw_response_mul_of_not_overflows hovf
  have hnonneg : 0 ≤ raw (response (.mul v v)).res := by omega
  have hscaled : (response (.mul v v)).res.toNat * 2 ^ 32 = v.toNat * v.toNat := by
    have hcast := natCast_toNat_of_raw_nonneg hnonneg
    zify
    rw [natCast_toNat_of_raw_nonneg h]
    omega
  rw [response_sqrt_res hnonneg, hscaled, nearestRoot_mul_self, BitVec.ofNat_toNat, BitVec.setWidth_eq]

/-- Settles O36: the range bounds the products, the nearest root is monotone, and it is exact on squares. -/
theorem sqrtRangeAndMonotone : Obligations.SqrtRangeAndMonotone := by
  refine ⟨?range, fun a a' b h hle => raw_response_sqrt_mono h hle b,
    fun v b h hexact hovf => sqrt_mul_self h hexact hovf b⟩
  case range =>
    intro a b b' h
    obtain ⟨h0, hmax⟩ := raw_response_sqrt_range h b
    obtain ⟨h0', hmax'⟩ := raw_response_sqrt_range h b'
    exact ⟨h0, hmax, response_mul_ovf_of_le_maxRoot h0 hmax h0' hmax'⟩

end Sys2Proof.Proofs
end

section
/-! The digit-by-digit root: its two passes extract one root bit by bit, of the scaled operand or, through the
correction branch, of `2^30` less (spec/43_sqrt.md R138). -/

namespace Sys2Proof.Proofs

open Sys2Proof.Machine

/-! ### The digit steps -/

theorem four_pow_eq (k : Nat) : 4 ^ k = 2 ^ k * 2 ^ k := Nat.mul_pow 2 2 k

/-- The digit steps extract the same bits as `isqrtBits`: below a root `p` found so far the remainder is `n - p²`, and
the partial result stands `k` bits above its place. -/
theorem rootDigits_eq_isqrtBits (n k p : Nat) (h : p * p ≤ n) :
    rootDigits k { num := n - p * p, res := p * 2 ^ k } =
      { num := n - isqrtBits n k p * isqrtBits n k p, res := isqrtBits n k p } := by
  induction k generalizing p with
  | zero => simp [rootDigits, isqrtBits]
  | succ k ih =>
    have htrial : (p + 2 ^ k) * (p + 2 ^ k) = p * p + (p * 2 ^ (k + 1) + 4 ^ k) := by
      rw [four_pow_eq]
      ring
    have hhalf : p * 2 ^ (k + 1) / 2 = p * 2 ^ k := by
      rw [pow_succ, ← mul_assoc, Nat.mul_div_cancel _ two_pos]
    unfold rootDigits isqrtBits
    dsimp only
    by_cases hbit : (p + 2 ^ k) * (p + 2 ^ k) ≤ n
    · have hplace : p * 2 ^ k + 4 ^ k = (p + 2 ^ k) * 2 ^ k := by
        rw [four_pow_eq, add_mul]
      rw [if_pos hbit, if_pos (by omega), hhalf, hplace, Nat.sub_sub, ← htrial]
      exact ih _ hbit
    · rw [if_neg hbit, if_neg (by omega), hhalf]
      exact ih p h

/-- From a partial root `p` with `k` bits to come, the digit steps end at the integer root and its remainder. -/
theorem rootDigits_eq_sqrt {n k p : Nat} (hlower : p * p ≤ n) (hupper : n < (p + 2 ^ k) * (p + 2 ^ k)) :
    rootDigits k { num := n - p * p, res := p * 2 ^ k } = { num := n - n.sqrt * n.sqrt, res := n.sqrt } := by
  rw [rootDigits_eq_isqrtBits n k p hlower, Nat.eq_sqrt.mpr (isqrtBits_spec n k p hlower hupper)]

/-- The digit steps that are skipped are those of leading zeros. -/
theorem lt_four_pow_rootStart {x : Nat} (n : Nat) (h : x < 4 ^ n) : x < 4 ^ rootStart x n := by
  induction n with
  | zero => exact h
  | succ n ih =>
    unfold rootStart
    split
    · next hskip => exact ih hskip
    · exact h

/-! ### The two passes -/

theorem rootDigits_first {x : Nat} (h : x < 2 ^ 64) :
    rootDigits (rootStart x 32) { num := x, res := 0 } = { num := x - x.sqrt * x.sqrt, res := x.sqrt } := by
  have hstart : x < (0 + 2 ^ rootStart x 32) * (0 + 2 ^ rootStart x 32) := by
    rw [zero_add, ← four_pow_eq]
    exact lt_four_pow_rootStart 32 h
  simpa using rootDigits_eq_sqrt (p := 0) (Nat.zero_le x) hstart

/-- The procedure is the nearest root of `n` when the rescaling of the first pass is the partial root `p` of `n` with
16 bits to come. -/
theorem sqrtByDigits_eq_nearestRoot {x n p : Nat} (hx : x < 2 ^ 64) (hlower : p * p ≤ n)
    (hupper : n < (p + 2 ^ 16) * (p + 2 ^ 16))
    (hrescale : rootRescale { num := x - x.sqrt * x.sqrt, res := x.sqrt } =
      { num := n - p * p, res := p * 2 ^ 16 }) : sqrtByDigits x = nearestRoot n := by
  unfold sqrtByDigits
  dsimp only
  rw [rootDigits_first hx, hrescale, rootDigits_eq_sqrt hlower hupper]
  rfl

theorem sqrt_lt_of_lt {x : Nat} (h : x < 2 ^ 64) : x.sqrt < 2 ^ 32 := Nat.sqrt_lt.mpr (by omega)

/-- Without the correction the second pass goes on with the root of `x * 2^32`. -/
theorem sqrtByDigits_of_small {x : Nat} (hx : x < 2 ^ 64) (h : x < x.sqrt * x.sqrt + 2 ^ 32) :
    sqrtByDigits x = nearestRoot (x * 2 ^ 32) := by
  have hroot := sqrt_lt_of_lt hx
  have hlower := Nat.sqrt_le x
  have hupper := Nat.sqrt_le_add x
  have hsquare : x.sqrt * 2 ^ 16 * (x.sqrt * 2 ^ 16) = x.sqrt * x.sqrt * 2 ^ 32 := by ring
  have hnext : (x.sqrt * 2 ^ 16 + 2 ^ 16) * (x.sqrt * 2 ^ 16 + 2 ^ 16) =
      x.sqrt * x.sqrt * 2 ^ 32 + 2 * (x.sqrt * 2 ^ 32) + 2 ^ 32 := by ring
  refine sqrtByDigits_eq_nearestRoot (p := x.sqrt * 2 ^ 16) hx ?_ ?_ ?_
  · rw [hsquare]
    omega
  · rw [hnext]
    omega
  · unfold rootRescale
    dsimp only
    rw [if_neg (by omega), hsquare, RootState.mk.injEq]
    omega

/-- The correction starts the second pass from the partial root with one more half-bit, `x.sqrt * 2^16 + 2^15`; with
the constant that R138 takes off the remainder this is a root of `2^30` less than the scaled operand (log entry 19). -/
theorem sqrtByDigits_of_large {x : Nat} (hx : x < 2 ^ 64) (h : x.sqrt * x.sqrt + 2 ^ 32 ≤ x) :
    sqrtByDigits x = nearestRoot (x * 2 ^ 32 - 2 ^ 30) := by
  have hroot := sqrt_lt_of_lt hx
  have hupper := Nat.sqrt_le_add x
  have hsquare : (x.sqrt * 2 ^ 16 + 2 ^ 15) * (x.sqrt * 2 ^ 16 + 2 ^ 15) =
      x.sqrt * x.sqrt * 2 ^ 32 + x.sqrt * 2 ^ 32 + 2 ^ 30 := by ring
  have hnext : (x.sqrt * 2 ^ 16 + 2 ^ 15 + 2 ^ 16) * (x.sqrt * 2 ^ 16 + 2 ^ 15 + 2 ^ 16) =
      x.sqrt * x.sqrt * 2 ^ 32 + 3 * (x.sqrt * 2 ^ 32) + 9 * 2 ^ 30 := by ring
  refine sqrtByDigits_eq_nearestRoot (p := x.sqrt * 2 ^ 16 + 2 ^ 15) hx ?_ ?_ ?_
  · rw [hsquare]
    omega
  · rw [hnext]
    omega
  · unfold rootRescale
    dsimp only
    rw [if_pos (by omega), hsquare, RootState.mk.injEq]
    omega

/-! ### The procedure against SQRT -/

/-- For an operand whose root is at least `2^30`, taking `2^30` off it lowers the nearest root by one at most. -/
theorem nearestRoot_sub_eq_or {n : Nat} (h : 2 ^ 60 ≤ n) :
    nearestRoot n = nearestRoot (n - 2 ^ 30) ∨ nearestRoot n = nearestRoot (n - 2 ^ 30) + 1 := by
  have hmono : nearestRoot (n - 2 ^ 30) ≤ nearestRoot n := nearestRoot_mono (Nat.sub_le _ _)
  have hlarge : 2 ^ 30 - 2 < nearestRoot (n - 2 ^ 30) := (lt_nearestRoot_iff _ _).mpr (by omega)
  have hspec := le_nearestRoot_mul_add (n - 2 ^ 30)
  have hnext : nearestRoot n ≤ nearestRoot (n - 2 ^ 30) + 1 := by
    rw [nearestRoot_le_iff]
    have hexpand : (nearestRoot (n - 2 ^ 30) + 1) * (nearestRoot (n - 2 ^ 30) + 1) =
        nearestRoot (n - 2 ^ 30) * nearestRoot (n - 2 ^ 30) + 2 * nearestRoot (n - 2 ^ 30) + 1 := by ring
    omega
  omega

theorem response_sqrt_res_of_small {a : Word} (h : 0 ≤ raw a) (hsmall : a.toNat < a.toNat.sqrt ^ 2 + 2 ^ 32)
    (b : Word) : (response (.sqrt a b)).res = BitVec.ofNat 64 (sqrtByDigits a.toNat) := by
  rw [response_sqrt_res h, sqrtByDigits_of_small a.isLt (by rwa [← sq])]

theorem response_sqrt_res_of_large {a : Word} (h : 0 ≤ raw a) (hlarge : a.toNat.sqrt ^ 2 + 2 ^ 32 ≤ a.toNat)
    (b : Word) : (response (.sqrt a b)).res = BitVec.ofNat 64 (sqrtByDigits a.toNat) ∨
      (response (.sqrt a b)).res = BitVec.ofNat 64 (sqrtByDigits a.toNat + 1) := by
  have hle : 2 ^ 32 ≤ a.toNat := (Nat.le_add_left _ _).trans hlarge
  rw [response_sqrt_res h, sqrtByDigits_of_large a.isLt (by rwa [← sq])]
  exact (nearestRoot_sub_eq_or (by omega)).imp (congrArg _) (congrArg _)

/-- With the correction the procedure answers within a half of the root of `2^30` less than the scaled operand. -/
theorem sqrtByDigits_bounds_of_large {a : Word} (h : 0 ≤ raw a)
    (hlarge : a.toNat.sqrt ^ 2 + 2 ^ 32 ≤ a.toNat) :
    (2 * (sqrtByDigits a.toNat : Int) - 1) ^ 2 < 4 * (raw a * 2 ^ 32 - 2 ^ 30) ∧
      4 * (raw a * 2 ^ 32 - 2 ^ 30) < (2 * (sqrtByDigits a.toNat : Int) + 1) ^ 2 := by
  have hle : 2 ^ 32 ≤ a.toNat := (Nat.le_add_left _ _).trans hlarge
  have hcast := natCast_toNat_of_raw_nonneg h
  have hscaled : ((a.toNat * 2 ^ 32 - 2 ^ 30 : Nat) : Int) = raw a * 2 ^ 32 - 2 ^ 30 := by omega
  have hpos : 0 < nearestRoot (a.toNat * 2 ^ 32 - 2 ^ 30) := (lt_nearestRoot_iff _ 0).mpr (by omega)
  obtain ⟨hupper, hlower⟩ := nearestRoot_bounds (a.toNat * 2 ^ 32 - 2 ^ 30)
  rw [hscaled] at hupper hlower
  rw [sqrtByDigits_of_large a.isLt (by rwa [← sq])]
  exact ⟨hlower hpos.ne', hupper⟩

/-- Settles O40: without the correction the two answers agree; with it the procedure has its own bounds and SQRT's
root is at most one more. The two fixed operands are evaluated. -/
theorem digitRootIsSqrtOrOneLess : Obligations.DigitRootIsSqrtOrOneLess := by
  refine ⟨fun a b h hsmall => response_sqrt_res_of_small h hsmall b, ?corrected, fun b => ⟨by decide, ?oneLess⟩,
    fun b => ?equal⟩
  case corrected =>
    intro a b h hlarge
    obtain ⟨hlower, hupper⟩ := sqrtByDigits_bounds_of_large h hlarge
    exact ⟨hlower, hupper, response_sqrt_res_of_large h hlarge b⟩
  case oneLess =>
    rw [response_sqrt_res (by decide), nearestRoot_eq_succ (r := 0xA0000000FFFF) (by decide) (by decide)]
    rfl
  case equal =>
    rw [response_sqrt_res (by decide), nearestRoot_eq_succ (r := 0xB504F333F9DD) (by decide) (by decide)]
    decide

end Sys2Proof.Proofs
end

section
/-! The trigonometric commands as the sequences of their rules: the table interpolator by the commands of its operators,
the angle reducers by remainders (spec/44_trig.md R146 to R164). -/

namespace Sys2Proof.Proofs

open Sys2Proof.Machine

/-! ### The responses -/

theorem response_sin (a b : Word) :
    response (.sin a b) = okResponse (unflagged (sinValue Config.sinLut (raw a))) := rfl

theorem response_fsin (a b : Word) :
    response (.fsin a b) = okResponse (unflagged (fastSinValue Config.sinLut (raw a))) := rfl

theorem response_cos (a b : Word) :
    response (.cos a b) = okResponse (unflagged (sinValue Config.sinLut (cosAngle (raw a)))) := rfl

theorem response_fcos (a b : Word) :
    response (.fcos a b) = okResponse (unflagged (fastSinValue Config.sinLut (cosAngle (raw a)))) := rfl

theorem response_tan (a b : Word) :
    response (.tan a b) = okResponse (unflagged (tanValue Config.tanLut (raw a))) := rfl

/-! ### Signed readings of responses -/

theorem toInt_eq_raw (v : Word) : v.toInt = raw v := rfl

/-- An unflagged value that is already the reading of a word reads back from its response. -/
theorem raw_response_unflagged_raw (v : Word) : raw (okResponse (unflagged (raw v))).res = raw v :=
  raw_response_unflagged (raw_lower v) (raw_upper v)

theorem raw_response_fmul (a b : Word) : raw (response (.fmul a b)).res = fmul (raw a) (raw b) :=
  raw_response_unflagged_raw _

theorem raw_response_fsub (a b : Word) : raw (response (.fsub a b)).res = fsub (raw a) (raw b) :=
  raw_response_unflagged_raw _

theorem raw_response_fabs (a b : Word) : raw (response (.fabs a b)).res = fabs (raw a) :=
  raw_response_unflagged_raw _

theorem raw_response_round_eq_roundSat (a b : Word) : raw (response (.round a b)).res = roundSat (raw a) := by
  rw [response_round]
  exact raw_wordOf (clamp_lower _) (clamp_upper _)

theorem sgn_cases (x : Int) : (x < 0 ∧ sgn x = -1) ∨ (x = 0 ∧ sgn x = 0) ∨ (0 < x ∧ sgn x = 1) := by
  unfold sgn
  rcases lt_trichotomy x 0 with h | h | h
  · exact .inl ⟨h, if_pos h⟩
  · exact .inr (.inl ⟨h, by simp [h]⟩)
  · exact .inr (.inr ⟨h, by rw [if_neg h.not_gt, if_neg h.ne']⟩)

theorem raw_response_sign (a b : Word) : raw (response (.sign a b)).res = sgn (raw a) := by
  rw [response_sign]
  rcases sgn_cases (raw a) with ⟨-, e⟩ | ⟨-, e⟩ | ⟨-, e⟩ <;> exact raw_response_unflagged (by omega) (by omega)

theorem wrap_raw (v : Word) : wrap (raw v) = raw v := wrap_of_range (raw_lower v) (raw_upper v)

/-- A word's magnitude is exact where it is in range (R127). -/
theorem fabs_of_range {x : Int} (hlower : -(2 ^ 63) < x) (hupper : x < 2 ^ 63) : fabs x = |x| := by
  have habs : |x| < 2 ^ 63 := abs_lt.mpr ⟨hlower, hupper⟩
  have hword : wordOf (fabs x) = wordOf |x| := by
    rw [← raw_wordOf hlower.le hupper]
    exact wordOf_fabs_raw _
  calc fabs x = raw (wordOf (fabs x)) := (wrap_raw _).symm
    _ = raw (wordOf |x|) := by rw [hword]
    _ = |x| := raw_wordOf (by linarith [abs_nonneg x]) habs

/-! ### Table reads (spec/20_memory.md R41, R50) -/

theorem clampIndex_of_range {i : Int} (h : 0 ≤ i ∧ i ≤ 205886) : clampIndex i = i.toNat := by
  unfold clampIndex lutLength
  rw [if_neg (by omega), if_neg (by omega)]

/-- At an index of the table the read is the entry there. -/
theorem readLut_of_range (t : Lut) {i : Int} (h : 0 ≤ i ∧ i ≤ 205886) : readLut t i = raw (t i.toNat) := by
  rw [readLut, clampIndex_of_range h, toInt_eq_raw]

/-! ### The interpolator as commands (R149, R150) -/

/-- The position in index space, read back from its command. -/
theorem raw_response_fmul_lutInterval (q : Word) :
    raw (response (.fmul q 0x0001FFFF19349798)).res = indexOf (raw q) := raw_response_fmul q _

theorem raw_response_index_error {p : Word} {x : Int} (h : raw p = indexOf x) :
    raw (response (.fsub p (response (.round p 0)).res)).res = indexError x := by
  rw [raw_response_fsub, raw_response_round_eq_roundSat, h, indexError]

theorem raw_response_near_index {p : Word} {x : Int} (h : raw p = indexOf x) :
    raw (response (.toint (response (.round p 0)).res 0)).res = nearIndex x := by
  rw [raw_response_toint, raw_response_round_eq_roundSat, h, nearIndex, floorDiv]

/-- The share of the entries' distance, read back from its commands. -/
theorem raw_response_delta {e : Word} {x : Int} (h : raw e = indexError x) (near sec : Word) :
    raw (response (.fmul e (response (.fabs (response (.fsub near sec)).res 0)).res)).res =
      fmul (indexError x) (fabs (fsub (raw near) (raw sec))) := by
  rw [raw_response_fmul, raw_response_fabs, raw_response_fsub, h]

theorem firstRead_eq_ite (q : Int) (mirror : Bool) :
    firstRead q mirror = if mirror then 205886 - nearIndex q else nearIndex q := rfl

theorem secondRead_eq_ite (q : Int) (mirror : Bool) : secondRead q mirror =
    if mirror then 205886 - nearIndex q - sgn (indexError q) else nearIndex q + sgn (indexError q) := rfl

/-- The interpolated read of a reduced angle is the sequence of its commands: every index is in the table, so the
clamp of the read is not seen. -/
theorem wordOf_interp (t : Lut) (mirror : Bool) {q : Word} (h0 : 0 ≤ raw q) (h1 : raw q ≤ piOver2) :
    wordOf (interp t (raw q) mirror) = interpolatedByCommands t q mirror := by
  have hnear := readLut_of_range t (firstRead_range mirror h0 h1)
  have hsec := readLut_of_range t (secondRead_range mirror h0 h1)
  have herror := raw_response_index_error (raw_response_fmul_lutInterval q)
  have hindex := raw_response_near_index (raw_response_fmul_lutInterval q)
  unfold interpolatedByCommands interp
  simp only [toInt_eq_raw, raw_response_sign, herror, hindex, hnear, hsec, ← firstRead_eq_ite, ← secondRead_eq_ite,
    ← raw_response_delta herror]
  split
  · rw [wordOf_wrap, wordOf_sub_raw]
  · rw [wordOf_wrap, wordOf_add_raw]

/-! ### The reducers as remainders (R146, R162) -/

/-- The folds are the remainder by `Pi`, for an angle that `n` of them suffice for. -/
theorem foldPi_eq_emod (n : Nat) {c : Int} (h0 : 0 ≤ c) (h1 : c < (n + 1) * pi) : foldPi n c = c % pi := by
  induction n generalizing c with
  | zero => exact (Int.emod_eq_of_lt h0 (by simpa using h1)).symm
  | succ n ih =>
    unfold foldPi
    split
    · rw [ih (by omega) (by push_cast at h1; linarith), Int.sub_emod_right]
    · exact (Int.emod_eq_of_lt h0 (by omega)).symm

/-- The folded angle is the remainder of the turned angle by `Pi`. -/
theorem foldPi_turnAngle_eq_emod (x : Int) : foldPi 2 (turnAngle x) = turnAngle x % pi := by
  obtain ⟨h0, h1⟩ := turnAngle_range x
  exact foldPi_eq_emod 2 h0 (lt_of_le_of_lt h1 (by decide))

/-- The sine reducer by remainders. -/
theorem reduceSin_eq (x : Int) : reduceSin x =
    { q := turnAngle x % pi % piOver2, fh := decide (piOver2 ≤ turnAngle x % pi),
      fv := decide (pi ≤ turnAngle x) } := by
  obtain ⟨h0, h1⟩ := foldPi_turnAngle_range x
  rw [pi_eq_two_piOver2] at h1
  have hq : (if piOver2 ≤ foldPi 2 (turnAngle x) then foldPi 2 (turnAngle x) - piOver2 else foldPi 2 (turnAngle x)) =
      foldPi 2 (turnAngle x) % piOver2 := by
    split
    · rw [← Int.sub_emod_right, Int.emod_eq_of_lt (by omega) (by omega)]
    · rw [Int.emod_eq_of_lt h0 (by omega)]
  unfold reduceSin
  dsimp only
  rw [hq, foldPi_turnAngle_eq_emod]

theorem remainderChain_eq_foldl (x : Int) :
    remainderChain x = (List.range 29).foldl (fun (c : Int) i => c.tmod (0x6487ED5110B4611A / 2 ^ i)) x := by
  simp only [remainderChain, trem_eq_tmod, reducerModulus, largePi]

/-- The tangent reducer by a remainder and its magnitude. -/
theorem reduceTan_eq (x : Int) : reduceTan x =
    { c := if piOver2 < |x.tmod pi| then pi - |x.tmod pi| else |x.tmod pi|,
      flip := decide (x.tmod pi < 0) != decide (piOver2 < |x.tmod pi|) } := by
  have habs : (if x.tmod pi < 0 then -x.tmod pi else x.tmod pi) = |x.tmod pi| := by
    split
    · next h => rw [abs_of_neg h]
    · next h => rw [abs_of_nonneg (not_lt.mp h)]
  unfold reduceTan
  simp only [trem_eq_tmod, habs]
  split
  · next h =>
    have hmirror : piOver2 - (|x.tmod pi| - piOver2) = pi - |x.tmod pi| := by linarith [pi_eq_two_piOver2]
    simp [h, hmirror]
  · next h => simp [h]

/-! ### The flip -/

/-- On words the flip is the two's-complement negation. -/
theorem wordOf_flipIf (flip : Bool) (v : Int) : wordOf (flipIf flip v) = if flip then -wordOf v else wordOf v := by
  cases flip with
  | false => rfl
  | true => exact (wordOf_wrap _).trans BitVec.ofInt_neg

/-! ### The sequences (R155, R157, R160, R162, R164) -/

/-- The sequence of SIN takes its angle through the reducer. -/
theorem sineByCommands_eq (t : Lut) (x : Int) : sineByCommands t x =
    if (reduceSin x).fv then -interpolatedByCommands t (wordOf (reduceSin x).q) (reduceSin x).fh
    else interpolatedByCommands t (wordOf (reduceSin x).q) (reduceSin x).fh := by
  unfold sineByCommands
  simp only [reduceSin_eq, turnAngle, remainderChain_eq_foldl, decide_eq_true_eq]
  rfl

/-- What SIN answers at any angle is the word of its sequence. -/
theorem wordOf_sinValue (t : Lut) (x : Int) : wordOf (sinValue t x) = sineByCommands t x := by
  obtain ⟨h0, h1⟩ := reduceSin_q_range x
  have hq : raw (wordOf (reduceSin x).q) = (reduceSin x).q := raw_wordOf (by omega) (h1.trans (by decide))
  have hinterp := wordOf_interp t (reduceSin x).fh (q := wordOf (reduceSin x).q) (by omega) (by omega)
  rw [hq] at hinterp
  rw [sineByCommands_eq, sinValue, wordOf_flipIf, hinterp]

/-- The clamped index without interpolation is a minimum (R160). -/
theorem fastIndex_eq_min (q : Int) : fastIndex q = min (q / 2 ^ 15) 205886 := by
  unfold fastIndex floorDiv lutLength
  dsimp only
  split <;> omega

/-- The sequence of FSIN takes its angle through the same reducer, and its index is in the table. -/
theorem fastSineByCommands_eq (t : Lut) (x : Int) : fastSineByCommands t x =
    if (reduceSin x).fv then -t (fastRead (reduceSin x)).toNat else t (fastRead (reduceSin x)).toNat := by
  unfold fastSineByCommands
  simp only [fastRead, fastIndex_eq_min, reduceSin_eq, turnAngle, remainderChain_eq_foldl, decide_eq_true_eq]
  rfl

/-- What FSIN answers at any angle is the word of its sequence. -/
theorem wordOf_fastSinValue (t : Lut) (x : Int) : wordOf (fastSinValue t x) = fastSineByCommands t x := by
  obtain ⟨h0, -⟩ := reduceSin_q_range x
  have hread := readLut_of_range t (fastRead_range h0)
  rw [fastSineByCommands_eq, fastSinValue, wordOf_flipIf, hread, wordOf_raw]

/-- What TAN answers is the word of its interpolated read, flipped. -/
theorem wordOf_tanValue (t : Lut) (x : Int) : wordOf (tanValue t x) =
    if (reduceTan x).flip then -interpolatedByCommands t (wordOf (reduceTan x).c) false
    else interpolatedByCommands t (wordOf (reduceTan x).c) false := by
  obtain ⟨h0, h1⟩ := reduceTan_c_range x
  have hc : raw (wordOf (reduceTan x).c) = (reduceTan x).c := raw_wordOf (by omega) (lt_of_le_of_lt h1 (by decide))
  have hinterp := wordOf_interp t false (q := wordOf (reduceTan x).c) (by omega) (by omega)
  rw [hc] at hinterp
  rw [tanValue, wordOf_flipIf, hinterp]

/-- The adjusted angle of a cosine does not wrap (R157). -/
theorem cosAngle_raw (a : Word) :
    cosAngle (raw a) = (if 0 < raw a then raw a - pi - piOver2 else raw a + piOver2) ∧
      -(2 ^ 63) ≤ cosAngle (raw a) ∧ cosAngle (raw a) < 2 ^ 63 := by
  have hlower := raw_lower a
  have hupper := raw_upper a
  unfold cosAngle pi piOver2
  split <;> rw [wrap_of_range (by omega) (by omega)] <;> omega

/-! ### The statements -/

/-- Settles O41: the ranges of the reducer's three stages, and a product of two integers of one sign. -/
theorem sineReducerRanges : Obligations.SineReducerRanges := by
  intro a
  refine ⟨⟨abs_remainderChain_lt _, ?sign⟩, turnAngle_of_nonneg, turnAngle_of_neg, foldPi_turnAngle_range _,
    reduceSin_q_range _⟩
  case sign =>
    rcases le_total 0 a.toInt with h | h
    · exact mul_nonneg (remainderChain_nonneg h) h
    · exact mul_nonneg_of_nonpos_of_nonpos (remainderChain_nonpos h) h

/-- Settles O42: the nearest index and its neighbour on the side of the error are in the table, read
from either end. -/
theorem interpolatorIndicesInRange : Obligations.InterpolatorIndicesInRange := by
  intro q mirror h0 h1
  obtain ⟨hfirst0, hfirst1⟩ := firstRead_range mirror h0 h1
  exact ⟨hfirst0, hfirst1, secondRead_range mirror h0 h1⟩

/-- Settles O44: the two values are the words of their sequences. -/
theorem sineIsItsSequence : Obligations.SineIsItsSequence := by
  intro a b s
  rw [exec_of_response_unflagged (response_sin a b), exec_of_response_unflagged (response_fsin a b), wordOf_sinValue,
    wordOf_fastSinValue]
  exact ⟨rfl, rfl⟩

/-- Settles O45: the reducer is the remainder by `Pi` and its magnitude. -/
theorem tangentIsItsSequence : Obligations.TangentIsItsSequence := by
  intro a b s
  rw [exec_of_response_unflagged (response_tan a b), wordOf_tanValue, reduceTan_eq]
  simp only [decide_eq_true_eq]
  rfl

/-- Settles O46: the adjusted angle does not wrap, and the sequences are the sine's at every angle. -/
theorem cosineIsShiftedSine : Obligations.CosineIsShiftedSine := by
  intro a b s
  obtain ⟨hangle, hlower, hupper⟩ := cosAngle_raw a
  have hcos := exec_of_response_unflagged (response_cos a b) s
  have hfcos := exec_of_response_unflagged (response_fcos a b) s
  rw [wordOf_sinValue] at hcos
  rw [wordOf_fastSinValue] at hfcos
  rw [hangle] at hlower hupper hcos hfcos
  exact ⟨hupper, hlower, hcos, hfcos⟩

end Sys2Proof.Proofs
end

section
/-! The bound of the sine and the fast sine over a non-decreasing table with entries in `[0, one]`
(spec/44_trig.md R155, R156, R160). -/

namespace Sys2Proof.Proofs

open Sys2Proof.Machine

/-! ### Reads of a bounded, non-decreasing table -/

/-- The entries of the table lie in `[0, one]`: the premise of O47. -/
def EntriesWithinOne (t : Lut) : Prop := ∀ i, InTable i → 0 ≤ (t i).toInt ∧ (t i).toInt ≤ 0x100000000

theorem clampIndex_lt_lutLength (i : Int) : clampIndex i < lutLength := by
  unfold clampIndex lutLength
  split
  · omega
  split <;> omega

theorem clampIndex_mono {i j : Int} (h : i ≤ j) : clampIndex i ≤ clampIndex j := by
  unfold clampIndex lutLength
  split
  · omega
  split
  · rw [if_neg (by omega), if_pos (by omega)]
  split
  · omega
  split <;> omega

/-- Reads of a non-decreasing table never decrease with the index, clamped or not. -/
theorem readLut_mono {t : Lut} (ht : LutMonotone t) {i j : Int} (h : i ≤ j) : readLut t i ≤ readLut t j :=
  ht _ _ (clampIndex_mono h) (clampIndex_lt_lutLength j)

theorem readLut_range {t : Lut} (ht : EntriesWithinOne t) (i : Int) :
    0 ≤ readLut t i ∧ readLut t i ≤ 0x100000000 := ht _ (clampIndex_lt_lutLength i)

/-! ### The walk from the first entry towards the second (R150) -/

/-- A quantity with the sign of the walk along the table: a mirrored read walks down. -/
def alongTable (mirror : Bool) (v : Int) : Int := if mirror then -v else v

theorem secondRead_eq_add (q : Int) (mirror : Bool) :
    secondRead q mirror = firstRead q mirror + alongTable mirror (sgn (indexError q)) := by
  rw [firstRead_eq_ite, secondRead_eq_ite]
  cases mirror with
  | false => rfl
  | true => exact Int.sub_eq_add_neg

theorem interp_eq_wrap (t : Lut) (q : Int) (mirror : Bool) : interp t q mirror =
    wrap (readLut t (firstRead q mirror) + alongTable mirror (fmul (indexError q)
      (fabs (fsub (readLut t (firstRead q mirror)) (readLut t (secondRead q mirror)))))) := by
  cases mirror with
  | false => rfl
  | true => exact congrArg wrap Int.sub_eq_add_neg

/-- At most half of `one` to either side takes at most the whole distance, on its own side. -/
theorem mulExact_between {e d : Int} (hlower : -2 ^ 31 ≤ e) (hupper : e ≤ 2 ^ 31) (hd : 0 ≤ d) :
    (0 ≤ e → 0 ≤ mulExact e d ∧ mulExact e d ≤ d) ∧ (e ≤ 0 → -d ≤ mulExact e d ∧ mulExact e d ≤ 0) := by
  unfold mulExact floorDiv
  refine ⟨fun h => ?_, fun h => ?_⟩
  · have hprod0 : 0 ≤ e * d := mul_nonneg h hd
    have hprod1 : e * d ≤ 2 ^ 31 * d := mul_le_mul_of_nonneg_right hupper hd
    omega
  · have hprod0 : e * d ≤ 0 := mul_nonpos_of_nonpos_of_nonneg h hd
    have hprod1 : -2 ^ 31 * d ≤ e * d := mul_le_mul_of_nonneg_right hlower hd
    omega

/-- Along the table the second read lies to the side the error points to. -/
theorem alongTable_sgn_cases (mirror : Bool) (x : Int) :
    (0 ≤ alongTable mirror (sgn x) ∧ 0 ≤ alongTable mirror x) ∨
      (alongTable mirror (sgn x) ≤ 0 ∧ alongTable mirror x ≤ 0) := by
  unfold alongTable
  rcases sgn_cases x with h | h | h <;> split <;> omega

/-- `mulExact_between` for a walk in either direction. -/
theorem alongTable_mulExact_between (mirror : Bool) {e d : Int} (hlower : -2 ^ 31 ≤ e) (hupper : e ≤ 2 ^ 31)
    (hd : 0 ≤ d) :
    (0 ≤ alongTable mirror e → 0 ≤ alongTable mirror (mulExact e d) ∧ alongTable mirror (mulExact e d) ≤ d) ∧
      (alongTable mirror e ≤ 0 → -d ≤ alongTable mirror (mulExact e d) ∧ alongTable mirror (mulExact e d) ≤ 0) := by
  obtain ⟨hup, hdown⟩ := mulExact_between hlower hupper hd
  unfold alongTable
  split <;> omega

/-- Between two entries in `[0, one]` none of the operators wraps. -/
theorem fmul_fabs_fsub_of_range {e near sec : Int} (hlower : -2 ^ 31 ≤ e) (hupper : e ≤ 2 ^ 31)
    (hnear : 0 ≤ near ∧ near ≤ 0x100000000) (hsec : 0 ≤ sec ∧ sec ≤ 0x100000000) :
    fmul e (fabs (fsub near sec)) = mulExact e |near - sec| := by
  obtain ⟨hup, hdown⟩ := mulExact_between hlower hupper (abs_nonneg (near - sec))
  have hdist : |near - sec| ≤ 0x100000000 := abs_le.mpr (by omega)
  have hsub : fsub near sec = near - sec := wrap_of_range (by omega) (by omega)
  rw [hsub, fabs_of_range (by omega) (by omega)]
  exact wrap_of_range (by omega) (by omega)

/-- The interpolated value is between the two entries: a non-decreasing table has them in the order of the walk, and
the share of their distance is at most the distance. -/
theorem interp_between {t : Lut} (hmono : LutMonotone t) (ht : EntriesWithinOne t) {q : Int} (mirror : Bool)
    (h0 : 0 ≤ q) (h1 : q ≤ piOver2) :
    (readLut t (firstRead q mirror) ≤ interp t q mirror ∧ interp t q mirror ≤ readLut t (secondRead q mirror)) ∨
      (readLut t (secondRead q mirror) ≤ interp t q mirror ∧ interp t q mirror ≤ readLut t (firstRead q mirror)) := by
  have hnear := readLut_range ht (firstRead q mirror)
  have hsec := readLut_range ht (secondRead q mirror)
  obtain ⟨-, hlower, hupper⟩ := indexOf_eq_nearIndex_add_error h0 h1
  have hread := secondRead_eq_add q mirror
  obtain ⟨hup, hdown⟩ := alongTable_mulExact_between mirror hlower hupper
    (abs_nonneg (readLut t (firstRead q mirror) - readLut t (secondRead q mirror)))
  rw [interp_eq_wrap, fmul_fabs_fsub_of_range hlower hupper hnear hsec]
  rcases alongTable_sgn_cases mirror (indexError q) with ⟨hsgn, herror⟩ | ⟨hsgn, herror⟩
  · have horder : readLut t (firstRead q mirror) ≤ readLut t (secondRead q mirror) := readLut_mono hmono (by omega)
    rw [abs_of_nonpos (by omega)] at hup ⊢
    obtain ⟨hstep0, hstep1⟩ := hup herror
    rw [wrap_of_range (by omega) (by omega)]
    omega
  · have horder : readLut t (secondRead q mirror) ≤ readLut t (firstRead q mirror) := readLut_mono hmono (by omega)
    rw [abs_of_nonneg (by omega)] at hdown ⊢
    obtain ⟨hstep0, hstep1⟩ := hdown herror
    rw [wrap_of_range (by omega) (by omega)]
    omega

/-- Between two entries in `[0, one]` is in `[0, one]`. -/
theorem interp_range {t : Lut} (hmono : LutMonotone t) (ht : EntriesWithinOne t) {q : Int} (mirror : Bool)
    (h0 : 0 ≤ q) (h1 : q ≤ piOver2) : 0 ≤ interp t q mirror ∧ interp t q mirror ≤ 0x100000000 := by
  obtain ⟨hnear0, hnear1⟩ := readLut_range ht (firstRead q mirror)
  obtain ⟨hsec0, hsec1⟩ := readLut_range ht (secondRead q mirror)
  rcases interp_between hmono ht mirror h0 h1 with ⟨hlower, hupper⟩ | ⟨hlower, hupper⟩ <;> omega

/-! ### The flip -/

/-- The flip is within the bound of what it flips. -/
theorem abs_flipIf_le (flip : Bool) {v bound : Int} (h0 : 0 ≤ v) (h1 : v ≤ bound) (hbound : bound < 2 ^ 63) :
    |flipIf flip v| ≤ bound := by
  cases flip with
  | false => exact (abs_of_nonneg h0).trans_le h1
  | true =>
    have hneg : wrap (-v) = -v := wrap_of_range (by omega) (by omega)
    simp only [flipIf, if_true, hneg, abs_neg, abs_of_nonneg h0, h1]

/-! ### The statement -/

/-- Settles O47: what is flipped is between two entries, or is an entry. -/
theorem sineStaysWithinOne : Obligations.SineStaysWithinOne := by
  intro t a hmono ht
  obtain ⟨hq0, hq1⟩ := reduceSin_q_range a.toInt
  obtain ⟨hsin0, hsin1⟩ := interp_range hmono ht (reduceSin a.toInt).fh hq0 hq1.le
  obtain ⟨hfast0, hfast1⟩ := readLut_range ht (fastRead (reduceSin a.toInt))
  exact ⟨abs_flipIf_le _ hsin0 hsin1 (by decide), abs_flipIf_le _ hfast0 hfast1 (by decide)⟩

end Sys2Proof.Proofs
end

section
/-! The odd symmetry of the tangent (spec/44_trig.md R162, R164, R165). -/

namespace Sys2Proof.Proofs

open Sys2Proof.Machine

/-! ### The interpolated read and the flip -/

/-- The interpolated read at angle 0 is the first entry. -/
theorem interp_zero (t : Lut) : interp t 0 false = (t 0).toInt := by
  have hnear : firstRead 0 false = 0 := by decide
  have herror : indexError 0 = 0 := by decide
  have hdelta (d : Int) : fmul 0 d = 0 := by simp [fmul, mulExact, floorDiv, wrap, wordOf]
  have hread : readLut t 0 = raw (t 0) := readLut_of_range t (by decide)
  unfold interp
  simp only [hnear, herror, hdelta, hread, Bool.false_eq_true, if_false, add_zero, wrap_raw]
  rfl

theorem wrap_interp (t : Lut) (q : Int) (mirror : Bool) : wrap (interp t q mirror) = interp t q mirror := by
  rw [interp_eq_wrap]
  exact wrap_raw _

/-- The opposite flip of a word's reading is the wrapped negative. -/
theorem flipIf_not (flip : Bool) {v : Int} (h : wrap v = v) : flipIf (!flip) v = wrap (-flipIf flip v) := by
  cases flip with
  | false => rfl
  | true =>
    have hword : wordOf (-wrap (-v)) = wordOf v := by
      calc wordOf (-wrap (-v)) = -wordOf (wrap (-v)) := BitVec.ofInt_neg
        _ = -wordOf (-v) := by rw [wordOf_wrap]
        _ = wordOf (- -v) := BitVec.ofInt_neg.symm
        _ = wordOf v := by rw [neg_neg]
    exact (h.symm.trans (congrArg raw hword.symm) : v = wrap (-wrap (-v)))

/-! ### The reduced angle of a negative (R162) -/

/-- Away from multiples of `Pi`, the negative angle reduces to the same angle with the opposite flip. -/
theorem reduceTan_neg {x : Int} (h : x.tmod pi ≠ 0) :
    reduceTan (-x) = { c := (reduceTan x).c, flip := !(reduceTan x).flip } := by
  have hsign : decide (-x.tmod pi < 0) = !decide (x.tmod pi < 0) := by
    rw [← decide_not, decide_eq_decide]
    omega
  rw [reduceTan_eq, reduceTan_eq, Int.neg_tmod, abs_neg, hsign, Bool.not_bne]

/-- At a multiple of `Pi` the reduced angle is 0, unflipped. -/
theorem reduceTan_of_tmod_eq_zero {x : Int} (h : x.tmod pi = 0) : reduceTan x = { c := 0, flip := false } := by
  rw [reduceTan_eq, h]
  decide

/-! ### The statement -/

theorem tanValue_of_tmod_eq_zero {t : Lut} (ht : (t 0).toInt = 0) {x : Int} (h : x.tmod pi = 0) :
    tanValue t x = 0 := by
  simp only [tanValue, reduceTan_of_tmod_eq_zero h, flipIf, Bool.false_eq_true, if_false, interp_zero, ht]

/-- A table that begins with 0 makes the tangent odd at every integer angle. -/
theorem tanValue_neg {t : Lut} (ht : (t 0).toInt = 0) (x : Int) : tanValue t (-x) = wrap (-tanValue t x) := by
  by_cases h : x.tmod pi = 0
  · have hneg : (-x).tmod pi = 0 := by rw [Int.neg_tmod, h, neg_zero]
    rw [tanValue_of_tmod_eq_zero ht h, tanValue_of_tmod_eq_zero ht hneg]
    rfl
  · rw [tanValue, tanValue, reduceTan_neg h]
    exact flipIf_not _ (wrap_interp _ _ _)

/-- Settles O48: the negative angle flips the same read, and where the angle reduces to 0 both read the entry 0. The
statement negates the integer, so `MinValue` needs no exception. -/
theorem tangentIsOdd : Obligations.TangentIsOdd := fun _ a ht _ => tanValue_neg ht a.toInt

end Sys2Proof.Proofs
end

section
/-! The operators of a series as the commands of their names (spec/00_scope.md R13), and quotients with a bound
(spec/41_saturating_arithmetic.md R94). -/

namespace Sys2Proof.Proofs

open Sys2Proof.Machine

/-! ### Signed readings of the operators' responses -/

theorem raw_response_add (a b : Word) : raw (response (.add a b)).res = add (raw a) (raw b) :=
  raw_wordOf (clamp_lower _) (clamp_upper _)

theorem raw_response_sub (a b : Word) : raw (response (.sub a b)).res = sub (raw a) (raw b) :=
  raw_wordOf (clamp_lower _) (clamp_upper _)

theorem raw_response_mul (a b : Word) : raw (response (.mul a b)).res = mul (raw a) (raw b) :=
  raw_wordOf (clamp_lower _) (clamp_upper _)

theorem raw_response_neg_eq_neg (a b : Word) : raw (response (.neg a b)).res = neg (raw a) := by
  by_cases h : raw a = minValue
  · rw [(raw_eq_minValue_iff a).mp h]
    rfl
  · rw [raw_response_neg h, neg, if_neg h]

theorem raw_response_abs (a b : Word) : raw (response (.abs a b)).res = absSat (raw a) := by
  have hclamp : absSat (raw a) = clamp |raw a| := by
    rw [absSat_eq_clampRange (raw_lower a) (raw_upper a), clamp_eq_clampRange]
  have hres : (response (.abs a b)).res = wordOf (absSat (raw a)) := rfl
  rw [hres, hclamp]
  exact raw_wordOf (clamp_lower _) (clamp_upper _)

/-- Dividing by a non-zero word raises nothing and answers what DIV does. -/
theorem div_raw (a : Word) {b : Word} (h : b ≠ 0) : div (raw a) (raw b) = .ok (raw (response (.div a b)).res) := by
  have hread : raw (response (.div a b)).res = clamp (divExact (raw a) (raw b)) := by
    rw [response_div h]
    exact raw_wordOf (clamp_lower _) (clamp_upper _)
  rw [div_of_ne (raw_ne_zero h), hread]

/-- The root of a non-negative word raises nothing and answers what SQRT does. -/
theorem sqrt_raw {a : Word} (h : 0 ≤ raw a) (b : Word) : sqrt (raw a) = .ok (raw (response (.sqrt a b)).res) := by
  rw [raw_response_sqrt h, sqrt, if_neg (not_lt.mpr h), ← natCast_toNat_of_raw_nonneg h,
    sqrtValue_natCast (toNat_lt_of_raw_nonneg h)]

/-! ### Literals -/

theorem raw_one : raw 0x100000000 = one := rfl
theorem raw_two : raw 0x200000000 = two := rfl
theorem raw_three : raw 0x300000000 = three := rfl
theorem raw_piOver2 : raw 0x1921FB544 = piOver2 := rfl
theorem raw_neg_piOver2 : raw 0xFFFFFFFE6DE04ABC = -piOver2 := rfl
theorem raw_pi : raw 0x3243F6A88 = pi := rfl
theorem raw_c028 : raw 0x47AE147A = c028 := rfl
theorem raw_ln2 : raw 0xB17217F7 = ln2 := rfl
theorem raw_intMax : raw (BitVec.intMax 64) = maxValue := rfl
theorem raw_zero : raw 0 = 0 := rfl

/-- Words are equal exactly when their readings are. -/
theorem raw_inj {a b : Word} : raw a = raw b ↔ a = b := BitVec.toInt_inj

theorem ne_zero_of_raw_pos {a : Word} (h : 0 < raw a) : a ≠ 0 := by
  rintro rfl
  exact absurd h (by decide)

/-! ### From a value to the response -/

/-- A sequence goes on with the value of an operator that raised nothing. -/
theorem ok_bind {α β : Type} (v : α) (f : α → Except Err β) : (Except.ok v >>= f) = f v := rfl

theorem map_ok {α β : Type} (f : α → β) (v : α) : (Except.ok v : Except Err α).map f = .ok (f v) := rfl

theorem response_of_value {i : Instr} {x : Except Err Int} {v : Int} (h : ∀ s, exec i s = completeValue x s)
    (hx : x = .ok v) : response i = okResponse (unflagged v) :=
  response_eq_of_exec fun s => by rw [h, hx, completeValue_ok]

theorem response_of_error {i : Instr} {x : Except Err Int} {e : Err} (h : ∀ s, exec i s = completeValue x s)
    (hx : x = .error e) : response i = errResponse e :=
  response_eq_of_exec fun s => by rw [h, hx, completeValue_error]

/-- A command whose value is the reading of a word answers that word, in every state. -/
theorem exec_of_value_raw {i : Instr} {x : Except Err Int} {w : Word} (h : ∀ s, exec i s = completeValue x s)
    (hx : x = .ok (raw w)) (s : State) : exec i s = .next (answered s w false 0) := by
  rw [exec_of_response_unflagged (response_of_value h hx), wordOf_raw]

/-! ### Quotients with a bound -/

/-- An exact bound of the quotient bounds the rounded one. -/
theorem divMagnitude_le {x y q : Int} (hy : y ≠ 0) (h : |x| * 2 ^ 32 ≤ q * |y|) : divMagnitude x y ≤ q := by
  have hpos : 0 < |y| := abs_pos.mpr hy
  obtain ⟨hlower, -⟩ := divMagnitude_nearest x hy
  have hhalf : (2 * divMagnitude x y - 1) * |y| ≤ 2 * q * |y| := by linarith
  have := le_of_mul_le_mul_right hhalf hpos
  omega

/-- A quotient without remainder is answered exactly. -/
theorem divMagnitude_eq {x y q : Int} (hy : y ≠ 0) (h : |x| * 2 ^ 32 = q * |y|) : divMagnitude x y = q := by
  have hpos : 0 < |y| := abs_pos.mpr hy
  obtain ⟨-, hupper⟩ := divMagnitude_nearest x hy
  have hhalf : 2 * q * |y| < (2 * divMagnitude x y + 1) * |y| := by linarith
  have := lt_of_mul_lt_mul_right hhalf hpos.le
  have := divMagnitude_le hy h.le
  omega

theorem abs_divExact (x y : Int) : |divExact x y| = divMagnitude x y := by
  rw [divExact_eq_ite]
  split
  · exact abs_of_nonneg (divMagnitude_nonneg x y)
  · rw [abs_neg, abs_of_nonneg (divMagnitude_nonneg x y)]

/-- A quotient bounded in range is not clamped, and its sign is that of the operands. -/
theorem div_bounded {x y q : Int} (hy : y ≠ 0) (hq : q < 2 ^ 63) (h : |x| * 2 ^ 32 ≤ q * |y|) :
    ∃ v, div x y = .ok v ∧ |v| ≤ q ∧ ((x < 0 ↔ y < 0) → 0 ≤ v) ∧ (¬(x < 0 ↔ y < 0) → v ≤ 0) := by
  have hle : |divExact x y| ≤ q := (abs_divExact x y).trans_le (divMagnitude_le hy h)
  obtain ⟨hlower, hupper⟩ := abs_le.mp hle
  have hnonneg := divMagnitude_nonneg x y
  refine ⟨divExact x y, ?_, hle, fun hsign => ?_, fun hsign => ?_⟩
  · rw [div_of_ne hy, clamp_of_range (by omega) (by omega)]
  · rw [divExact_eq_ite, if_pos hsign]
    exact hnonneg
  · rw [divExact_eq_ite, if_neg hsign]
    omega

/-- The same for a non-negative dividend and a positive divisor. -/
theorem div_bounded_of_nonneg {x y q : Int} (hx : 0 ≤ x) (hy : 0 < y) (hq : q < 2 ^ 63) (h : x * 2 ^ 32 ≤ q * y) :
    ∃ v, div x y = .ok v ∧ 0 ≤ v ∧ v ≤ q := by
  obtain ⟨v, hv, hbound, hnonneg, -⟩ := div_bounded hy.ne' hq (by rwa [abs_of_nonneg hx, abs_of_pos hy])
  exact ⟨v, hv, hnonneg (by omega), (abs_le.mp hbound).2⟩

/-- The reciprocal of a value of at least `one` is at most `one`. -/
theorem div_one_bounded {y : Int} (h : one ≤ y) : ∃ v, div one y = .ok v ∧ 0 ≤ v ∧ v ≤ one := by
  have hone : one = 2 ^ 32 := rfl
  exact div_bounded_of_nonneg (by decide) (by omega) (by decide) (mul_le_mul_of_nonneg_left (hone ▸ h) (by decide))

/-- A quotient of non-negative integers without remainder. -/
theorem div_eq_of_mul {x y q : Int} (hx : 0 ≤ x) (hy : 0 < y) (hq0 : 0 ≤ q) (hq : q < 2 ^ 63)
    (h : x * 2 ^ 32 = q * y) : div x y = .ok q := by
  have hexact : divExact x y = q := by
    rw [divExact_eq_ite, if_pos (by omega), divMagnitude_eq hy.ne' (by rwa [abs_of_nonneg hx, abs_of_pos hy])]
  rw [div_of_ne hy.ne', hexact, clamp_of_range (by omega) hq]

theorem add_of_range {x y : Int} (hlower : -(2 ^ 63) ≤ x + y) (hupper : x + y < 2 ^ 63) : add x y = x + y :=
  clamp_of_range hlower hupper

theorem sub_of_range {x y : Int} (hlower : -(2 ^ 63) ≤ x - y) (hupper : x - y < 2 ^ 63) : sub x y = x - y :=
  clamp_of_range hlower hupper

theorem mul_of_range {x y : Int} (hlower : -(2 ^ 63) ≤ x * y / 2 ^ 32) (hupper : x * y / 2 ^ 32 < 2 ^ 63) :
    mul x y = x * y / 2 ^ 32 := clamp_of_range hlower hupper

end Sys2Proof.Proofs
end

section
/-! ATAN: its loop as passes of commands, its bound and its odd symmetry (spec/45_series_transcendentals.md R175, R177,
R180). -/

namespace Sys2Proof.Proofs

open Sys2Proof.Machine

/-! ### The passes as commands (R177) -/

theorem mul_zero_left (x : Int) : mul 0 x = 0 := by simp [mul, mulExact, floorDiv, clamp, maxValue, minValue]

theorem add_zero_raw (w : Word) : add (raw w) 0 = raw w := by
  have hlower := raw_lower w
  have hupper := raw_upper w
  rw [add_of_range (by omega) (by omega), add_zero]

/-- Once the term is zero, further passes leave the sum (the loop of R177 is left there). -/
theorem eulerPass_iterate_result_of_term_zero (zSq2 zSq12 : Word) (n : Nat) (r : SeriesRegisters)
    (h : raw r.term = 0) : ((eulerPass zSq2 zSq12)^[n] r).result = r.result := by
  induction n generalizing r with
  | zero => rfl
  | succ n ih =>
    have hterm : raw (eulerPass zSq2 zSq12 r).term = 0 := by
      rw [eulerPass, raw_response_mul, h, mul_zero_left]
    have hresult : (eulerPass zSq2 zSq12 r).result = r.result := by
      apply raw_inj.mp
      change raw (response (.add r.result (eulerPass zSq2 zSq12 r).term)).res = _
      rw [raw_response_add, hterm, add_zero_raw]
    rw [Function.iterate_succ_apply, ih _ hterm, hresult]

/-- The loop of R177 is its passes as commands: the divisor starts positive and only grows, so no pass raises. -/
theorem atanLoop_raw {zSq12 : Word} (hstep : 0 ≤ raw zSq12) (zSq2 : Word) (n : Nat) (r : SeriesRegisters)
    (hdiv : 0 < raw r.divisor) :
    atanLoop (raw zSq2) (raw zSq12) n (raw r.dividend) (raw r.divisor) (raw r.term) (raw r.result) =
      .ok (raw ((eulerPass zSq2 zSq12)^[n] r).result) := by
  induction n generalizing r with
  | zero => rfl
  | succ n ih =>
    have hnext := ih (eulerPass zSq2 zSq12 r) (by
      rw [eulerPass, raw_response_add]
      exact add_pos_of_pos_of_nonneg hdiv hstep)
    have hzero := eulerPass_iterate_result_of_term_zero zSq2 zSq12 n (eulerPass zSq2 zSq12 r)
    unfold atanLoop
    rw [div_raw _ (ne_zero_of_raw_pos hdiv), ok_bind, Function.iterate_succ_apply]
    unfold eulerPass at hnext hzero ⊢
    simp only [raw_response_mul, raw_response_add] at hnext hzero ⊢
    split
    · next hterm => rw [hzero hterm, raw_response_add, raw_response_mul]
    · exact hnext

/-- The divisor `1 + z²` of R177 is positive. -/
theorem add_sq_one_pos (z : Int) : 0 < add (mul z z) one := by
  have hsq : 0 ≤ mul z z := mul_nonneg_of_mul_nonneg (mul_self_nonneg z)
  exact le_clamp (l := 1) (by decide) (by unfold one; omega)

/-- `1 + z²` of R177 as a command. -/
def eulerDivisor (z : Word) : Word := (response (.add (response (.mul z z)).res 0x100000000)).res

/-- `2 z²`, the step of R177's dividend, as a command. -/
def eulerDividendStep (z : Word) : Word := (response (.mul (response (.mul z z)).res 0x200000000)).res

/-- `2 (1 + z²)`, the step of R177's divisor, as a command. -/
def eulerDivisorStep (z : Word) : Word := (response (.mul (eulerDivisor z) 0x200000000)).res

/-- The four quantities before the first pass of R177. -/
def eulerStart (z : Word) : SeriesRegisters where
  result := 0x100000000
  term := 0x100000000
  dividend := eulerDividendStep z
  divisor := (response (.mul (eulerDivisor z) 0x300000000)).res

/-- The statement's series ends with the sum of 28 passes, times `z`, over `1 + z²`. -/
theorem eulerSeries_eq (z : Word) : eulerSeries z = (response (.div (response (.mul
    ((eulerPass (eulerDividendStep z) (eulerDivisorStep z))^[28] (eulerStart z)).result z)).res
    (eulerDivisor z))).res := by
  unfold eulerSeries
  dsimp only
  rw [List.foldl_const, List.length_range]
  rfl

theorem raw_eulerDivisor (z : Word) : raw (eulerDivisor z) = add (mul (raw z) (raw z)) one := by
  rw [eulerDivisor, raw_response_add, raw_response_mul, raw_one]

theorem raw_eulerDividendStep (z : Word) : raw (eulerDividendStep z) = mul (mul (raw z) (raw z)) two := by
  rw [eulerDividendStep, raw_response_mul, raw_response_mul, raw_two]

theorem raw_eulerDivisorStep (z : Word) : raw (eulerDivisorStep z) = mul (raw (eulerDivisor z)) two := by
  rw [eulerDivisorStep, raw_response_mul, raw_two]

theorem raw_eulerStart_divisor (z : Word) : raw (eulerStart z).divisor = mul (raw (eulerDivisor z)) three := by
  rw [eulerStart, raw_response_mul, raw_three]

/-- Every operator of the series is the command of its name, and leaving the loop at a zero term is making all 28
passes. -/
theorem atanSeries_raw (z : Word) : atanSeries (raw z) = .ok (raw (eulerSeries z)) := by
  have hdivisor : 0 < raw (eulerDivisor z) := (raw_eulerDivisor z).symm ▸ add_sq_one_pos (raw z)
  have hloop := atanLoop_raw (zSq12 := eulerDivisorStep z)
    (raw_eulerDivisorStep z ▸ (mul_pos_of_one_le hdivisor (by decide)).le) (eulerDividendStep z) 28 (eulerStart z)
    (raw_eulerStart_divisor z ▸ mul_pos_of_one_le hdivisor (by decide))
  have hdividend : raw (eulerStart z).dividend = raw (eulerDividendStep z) := rfl
  have hones : raw (eulerStart z).result = one ∧ raw (eulerStart z).term = one := ⟨rfl, rfl⟩
  rw [hdividend, hones.1, hones.2, raw_eulerStart_divisor, raw_eulerDivisorStep, raw_eulerDividendStep] at hloop
  unfold atanSeries
  dsimp only
  rw [eulerSeries_eq, ← div_raw _ (ne_zero_of_raw_pos hdivisor), raw_response_mul, ← raw_eulerDivisor, hloop, ok_bind]

/-- R177 above zero: the reciprocal symmetry above `one`, the series elsewhere. -/
def atanPositiveByCommands (z : Word) : Word :=
  if 0x100000000 < z.toInt then
    (response (.sub 0x1921FB544 (eulerSeries (response (.div 0x100000000 z)).res))).res
  else eulerSeries z

theorem atanPositive_raw (z : Word) : atanPositive (raw z) = .ok (raw (atanPositiveByCommands z)) := by
  unfold atanPositive atanPositiveByCommands
  by_cases hz : one < raw z
  · have hpos : 0 < raw z := lt_trans (by decide) hz
    rw [if_pos hz, if_pos (show (0x100000000 : Int) < z.toInt from hz), ← raw_one,
      div_raw _ (ne_zero_of_raw_pos hpos), ok_bind, atanSeries_raw, ok_bind, raw_response_sub, raw_piOver2]
  · rw [if_neg hz, if_neg (show ¬ (0x100000000 : Int) < z.toInt from hz), atanSeries_raw]

/-- The sequence of R177, every operator the command of its name. -/
def atanByCommands (a : Word) : Word :=
  if a = 0 then 0
  else if a.toInt < 0 then (response (.neg (atanPositiveByCommands (response (.neg a 0)).res) 0)).res
  else atanPositiveByCommands a

theorem atanValue_raw (a : Word) : atanValue (raw a) = .ok (raw (atanByCommands a)) := by
  unfold atanValue atanByCommands
  by_cases hzero : a = 0
  · rw [if_pos ((raw_eq_zero_iff a).mpr hzero), if_pos hzero, raw_zero]
  by_cases hneg : raw a < 0
  · rw [if_neg (raw_ne_zero hzero), if_pos hneg, if_neg hzero, if_pos (show a.toInt < 0 from hneg),
      ← raw_response_neg_eq_neg a 0, atanPositive_raw, map_ok, raw_response_neg_eq_neg]
  · rw [if_neg (raw_ne_zero hzero), if_neg hneg, if_neg hzero, if_neg (show ¬ a.toInt < 0 from hneg),
      atanPositive_raw]

/-- Settles O49: every operator of R177 is the command of its name. -/
theorem atanIsItsSequence : Obligations.AtanIsItsSequence := by
  intro a b s z r
  have hr : r = atanPositiveByCommands z := rfl
  have hword : (if a = 0 then 0 else if a.toInt < 0 then (response (.neg r 0)).res else r) = atanByCommands a := by
    unfold atanByCommands
    rw [hr]
    by_cases hneg : a.toInt < 0
    · rw [show z = (response (.neg a 0)).res from if_pos hneg, if_pos hneg, if_pos hneg]
    · rw [show z = a from if_neg hneg, if_neg hneg, if_neg hneg]
  rw [hword]
  exact exec_of_value_raw (fun _ => rfl) (atanValue_raw a) s

end Sys2Proof.Proofs
end

section
/-! ATAN's bound and its odd symmetry (spec/45_series_transcendentals.md R175, R177, R178, R180). -/

namespace Sys2Proof.Proofs

open Sys2Proof.Machine

/-! ### The series is bounded (R178) -/

/-- What a pass of R177 keeps with `n` passes to go: the quotient of dividend and divisor is at most a half, so that
the sum stays below 2, and the divisor stays far from saturation. -/
structure EulerBounded (n : Nat) (dividend divisor term result : Int) : Prop where
  dividend_nonneg : 0 ≤ dividend
  twice_dividend_le : 2 * dividend ≤ divisor
  divisor_pos : 0 < divisor
  divisor_le : divisor + n * 2 ^ 35 ≤ 2 ^ 62
  term_nonneg : 0 ≤ term
  result_nonneg : 0 ≤ result
  sum_le : result + term ≤ 2 * one

/-- A factor of at most a half takes at least a half away. -/
theorem mul_half_le {x y : Int} (hx0 : 0 ≤ x) (hx1 : x ≤ 2 * one) (hy0 : 0 ≤ y) (hy1 : y ≤ 2 ^ 31) :
    0 ≤ mul x y ∧ 2 * mul x y ≤ x := by
  unfold one at hx1
  have hproduct0 : 0 ≤ x * y := mul_nonneg hx0 hy0
  have hproduct1 : x * y ≤ x * 2 ^ 31 := mul_le_mul_of_nonneg_left hy1 hx0
  rw [mul_of_range (by omega) (by omega)]
  omega

/-- The loop of R177 raises nothing and its sum is at most 2. -/
theorem atanLoop_bounded {zSq2 zSq12 : Int} (h0 : 0 ≤ zSq2) (hhalf : 2 * zSq2 ≤ zSq12) (hstep : zSq12 ≤ 2 ^ 35)
    (n : Nat) (dividend divisor term result : Int) (hinv : EulerBounded n dividend divisor term result) :
    ∃ v, atanLoop zSq2 zSq12 n dividend divisor term result = .ok v ∧ 0 ≤ v ∧ v ≤ 2 * one := by
  induction n generalizing dividend divisor term result with
  | zero =>
    obtain ⟨-, -, -, -, hterm, hresult, hsum⟩ := hinv
    exact ⟨result, rfl, hresult, by omega⟩
  | succ n ih =>
    obtain ⟨hdividend, htwice, hpos, hroom, hterm, hresult, hsum⟩ := hinv
    push_cast at hroom
    obtain ⟨ratio, hratio, hratio0, hratio1⟩ :=
      div_bounded_of_nonneg (q := 2 ^ 31) hdividend hpos (by decide) (by omega)
    obtain ⟨hterm0, hterm1⟩ := mul_half_le hterm (by omega) hratio0 hratio1
    have hadd : add result (mul term ratio) = result + mul term ratio := by
      unfold one at hsum
      exact add_of_range (by omega) (by omega)
    have hdividendAdd : add dividend zSq2 = dividend + zSq2 := add_of_range (by omega) (by omega)
    have hdivisorAdd : add divisor zSq12 = divisor + zSq12 := add_of_range (by omega) (by omega)
    unfold atanLoop
    rw [hratio, ok_bind]
    dsimp only
    rw [hadd, hdividendAdd, hdivisorAdd]
    split
    · exact ⟨_, rfl, by omega, by omega⟩
    · exact ih _ _ _ _ ⟨by omega, by omega, by omega, by omega, hterm0, by omega, by omega⟩

/-- The square of a value in `[0, one]`, and `2 z ≤ 1 + z²` on raw values. -/
theorem mul_self_of_le_one {z : Int} (h0 : 0 ≤ z) (h1 : z ≤ one) :
    0 ≤ mul z z ∧ mul z z ≤ one ∧ 2 * z ≤ mul z z + one := by
  unfold one at h1 ⊢
  have hsquare : z * z ≤ 2 ^ 32 * 2 ^ 32 := mul_le_mul h1 h1 h0 (by decide)
  have hnonneg : 0 ≤ z * z := mul_self_nonneg z
  have hbinomial : 2 * z * 2 ^ 32 ≤ z * z + 2 ^ 32 * 2 ^ 32 := by linarith [mul_self_nonneg (z - 2 ^ 32)]
  rw [mul_of_range (by omega) (by omega)]
  omega

/-- The series answers a value in `[0, one]`: its sum is at most 2, and `2 z` is at most `1 + z²`. -/
theorem atanSeries_bounded {z : Int} (h0 : 0 ≤ z) (h1 : z ≤ one) : ∃ v, atanSeries z = .ok v ∧ 0 ≤ v ∧ v ≤ one := by
  obtain ⟨hsq0, hsq1, hbinomial⟩ := mul_self_of_le_one h0 h1
  unfold atanSeries
  generalize mul z z = zSq at hsq0 hsq1 hbinomial
  have hone : one = 2 ^ 32 := rfl
  have hdouble : mul zSq two = 2 * zSq := by
    unfold two
    rw [mul_of_range (by omega) (by omega)]
    omega
  have hzp1 : add zSq one = zSq + one := add_of_range (by omega) (by omega)
  have hstep : mul (zSq + one) two = 2 * (zSq + one) := by
    unfold two
    rw [mul_of_range (by omega) (by omega)]
    omega
  have hthree : mul (zSq + one) three = 3 * (zSq + one) := by
    unfold three
    rw [mul_of_range (by omega) (by omega)]
    omega
  obtain ⟨sum, hloop, hsum0, hsum1⟩ := atanLoop_bounded (zSq2 := 2 * zSq) (zSq12 := 2 * (zSq + one)) (by omega)
    (by omega) (by omega) 28 (2 * zSq) (3 * (zSq + one)) one one
    ⟨by omega, by omega, by omega, by omega, by omega, by omega, by omega⟩
  have hproduct0 : 0 ≤ sum * z := mul_nonneg hsum0 h0
  have hproduct1 : sum * z ≤ 2 * one * z := mul_le_mul_of_nonneg_right hsum1 h0
  rw [hone] at hproduct1
  have hmul : mul sum z = sum * z / 2 ^ 32 := mul_of_range (by omega) (by omega)
  obtain ⟨v, hv, hv0, hv1⟩ := div_bounded_of_nonneg (x := mul sum z) (y := zSq + one) (q := one) (by omega) (by omega)
    (by decide) (by rw [hmul, hone]; omega)
  dsimp only
  rw [hzp1, hdouble, hstep, hthree, hloop, ok_bind, hv]
  exact ⟨v, rfl, hv0, hv1⟩

theorem atanPositive_bounded {z : Int} (h : 0 ≤ z) :
    ∃ v, atanPositive z = .ok v ∧ 0 ≤ v ∧ v ≤ piOver2 := by
  have hone : one = 2 ^ 32 := rfl
  have hpi : piOver2 = 0x1921FB544 := rfl
  unfold atanPositive
  split
  · next hz =>
    obtain ⟨w, hw, hw0, hw1⟩ := div_one_bounded hz.le
    obtain ⟨r, hr, hr0, hr1⟩ := atanSeries_bounded hw0 hw1
    have hsub : sub piOver2 r = piOver2 - r := sub_of_range (by omega) (by omega)
    rw [hw, ok_bind, hr, ok_bind, hsub]
    exact ⟨_, rfl, by omega, by omega⟩
  · next hz =>
    obtain ⟨r, hr, hr0, hr1⟩ := atanSeries_bounded h (not_lt.mp hz)
    exact ⟨r, hr, hr0, by omega⟩

/-! ### Odd symmetry -/

/-- Away from `MinValue` ATAN raises nothing, is bounded by `PiOver2` and is odd: the sign is taken off first and
put back last. -/
theorem atanValue_odd {x : Int} (h : x ≠ minValue) (hneg : -x ≠ minValue) :
    ∃ v, |v| ≤ piOver2 ∧ atanValue x = .ok v ∧ atanValue (-x) = .ok (-v) := by
  have hnegate {v : Int} (h0 : 0 ≤ v) : neg v = -v := if_neg (by unfold minValue; omega)
  unfold atanValue
  rcases lt_trichotomy x 0 with hlt | rfl | hgt
  · obtain ⟨v, hv, hv0, hv1⟩ := atanPositive_bounded (z := -x) (by omega)
    refine ⟨-v, ?_, ?_, ?_⟩
    · rwa [abs_neg, abs_of_nonneg hv0]
    · rw [if_neg hlt.ne, if_pos hlt, neg, if_neg h, hv, map_ok, hnegate hv0]
    · rw [if_neg (by omega), if_neg (by omega), hv, neg_neg]
  · exact ⟨0, by decide, rfl, rfl⟩
  · obtain ⟨v, hv, hv0, hv1⟩ := atanPositive_bounded hgt.le
    refine ⟨v, ?_, ?_, ?_⟩
    · rwa [abs_of_nonneg hv0]
    · rw [if_neg hgt.ne', if_neg hgt.not_gt, hv]
    · rw [if_neg (by omega), if_pos (by omega), neg, if_neg hneg, neg_neg, hv, map_ok, hnegate hv0]

/-- At `MinValue` the operand negates to `MaxValue`, and the result is that of `-MaxValue`. -/
theorem atanValue_minValue : atanValue minValue = atanValue (-maxValue) := by
  have hneg : neg minValue = neg (-maxValue) := by decide
  unfold atanValue
  rw [if_neg (by decide), if_pos (by decide), if_neg (by decide), if_pos (by decide), hneg]

theorem atanValue_bounded {x : Int} (hlower : -(2 ^ 63) ≤ x) (hupper : x < 2 ^ 63) :
    ∃ v, |v| ≤ piOver2 ∧ atanValue x = .ok v := by
  have hodd {y : Int} (h0 : y ≠ minValue) (h1 : -y ≠ minValue) : ∃ v, |v| ≤ piOver2 ∧ atanValue y = .ok v := by
    obtain ⟨v, hbound, hv, -⟩ := atanValue_odd h0 h1
    exact ⟨v, hbound, hv⟩
  have hmin : minValue = -(2 ^ 63) := rfl
  by_cases h : x = minValue
  · rw [h, atanValue_minValue]
    exact hodd (by decide) (by decide)
  · exact hodd h (by omega)

/-- ATAN's word reads back as its value. -/
theorem atanValue_eq_raw_response (a b : Word) :
    |raw (response (.atan a b)).res| ≤ piOver2 ∧ atanValue (raw a) = .ok (raw (response (.atan a b)).res) := by
  obtain ⟨v, hbound, hv⟩ := atanValue_bounded (raw_lower a) (raw_upper a)
  have hpi : piOver2 = 0x1921FB544 := rfl
  obtain ⟨hlower, hupper⟩ := abs_le.mp hbound
  have hread : raw (response (.atan a b)).res = v := by
    rw [response_of_value (i := .atan a b) (fun _ => rfl) hv]
    exact raw_response_unflagged (by omega) (by omega)
  rw [hread]
  exact ⟨hbound, hv⟩

theorem response_atan_neg {a : Word} (h : a ≠ BitVec.intMin 64) (b b' : Word) :
    (response (.atan (-a) b)).res = -(response (.atan a b')).res := by
  have hmin : minValue = -(2 ^ 63) := rfl
  have hlower := raw_lower a
  have hupper := raw_upper a
  have hne : raw a ≠ minValue := mt (raw_eq_minValue_iff a).mp h
  have hraw : raw (-a) = -raw a := by
    rw [← wordOf_neg_raw]
    exact raw_wordOf (by omega) (by omega)
  obtain ⟨v, -, hv, hvneg⟩ := atanValue_odd hne (by omega)
  rw [← hraw] at hvneg
  rw [response_of_value (i := .atan (-a) b) (fun _ => rfl) hvneg,
    response_of_value (i := .atan a b') (fun _ => rfl) hv]
  exact BitVec.ofInt_neg

/-- Settles O50: the bound is `atanValue_bounded`, the symmetry `atanValue_odd`. -/
theorem atanCompletesBoundedOdd : Obligations.AtanCompletesBoundedOdd := by
  refine ⟨fun a b s => ?_, fun a b b' h => response_atan_neg h b b'⟩
  obtain ⟨v, hbound, hv⟩ := atanValue_bounded (raw_lower a) (raw_upper a)
  exact ⟨v, hbound, exec_of_response_unflagged (response_of_value (fun _ => rfl) hv) s⟩

end Sys2Proof.Proofs
end

section
/-! ATAN2 and ACOS as sequences of commands, and the range of ATAN2 (spec/45_series_transcendentals.md R175, R183, R184,
R187, R188). -/

namespace Sys2Proof.Proofs

open Sys2Proof.Machine

/-! ### ATAN2 as commands (R183) -/

/-- The denominator of R183 as commands. -/
def atan2DenominatorByCommands (z : Word) : Word :=
  (response (.add 0x100000000 (response (.mul (response (.mul 0x47AE147A z)).res z)).res)).res

/-- The second formula of R183 as commands. -/
def atan2SteepByCommands (z : Word) : Word :=
  (response (.sub 0x1921FB544
    (response (.div z (response (.add (response (.mul z z)).res 0x47AE147A)).res)).res)).res

/-- R183 from the quotient `z` on, every operator the command of its name. -/
def atan2QuotientByCommands (y x z : Word) : Word :=
  if atan2DenominatorByCommands z = BitVec.intMax 64 then
    (if raw y < 0 then 0xFFFFFFFE6DE04ABC else 0x1921FB544)
  else if raw (response (.abs z 0)).res < 0x100000000 then
    (if raw x < 0 then
      (if raw y < 0 then (response (.sub (response (.div z (atan2DenominatorByCommands z))).res 0x3243F6A88)).res
       else (response (.add (response (.div z (atan2DenominatorByCommands z))).res 0x3243F6A88)).res)
     else (response (.div z (atan2DenominatorByCommands z))).res)
  else if raw y < 0 then (response (.sub (atan2SteepByCommands z) 0x3243F6A88)).res
  else atan2SteepByCommands z

theorem raw_atan2DenominatorByCommands (z : Word) :
    raw (atan2DenominatorByCommands z) = atan2Denominator (raw z) := by
  rw [atan2DenominatorByCommands, raw_response_add, raw_response_mul, raw_response_mul, raw_one, raw_c028,
    atan2Denominator]

/-- The second divisor of R183 is at least `C028`. -/
theorem add_sq_c028_pos (z : Int) : 0 < add (mul z z) c028 := by
  have hsq : 0 ≤ mul z z := mul_nonneg_of_mul_nonneg (mul_self_nonneg z)
  exact le_clamp (l := 1) (by decide) (by unfold c028; omega)

/-- The second formula of R183 raises nothing. -/
theorem div_add_sq_c028_raw (z : Word) : div (raw z) (add (mul (raw z) (raw z)) c028) =
    .ok (raw (response (.div z (response (.add (response (.mul z z)).res 0x47AE147A)).res)).res) := by
  have hdivisor : raw (response (.add (response (.mul z z)).res 0x47AE147A)).res =
      add (mul (raw z) (raw z)) c028 := by
    rw [raw_response_add, raw_response_mul, raw_c028]
  rw [← hdivisor]
  exact div_raw z (ne_zero_of_raw_pos (hdivisor ▸ add_sq_c028_pos (raw z)))

theorem atan2Quotient_raw (y x z : Word) :
    atan2Quotient (raw y) (raw x) (raw z) = .ok (raw (atan2QuotientByCommands y x z)) := by
  have hden : atan2Denominator (raw z) = maxValue ↔ atan2DenominatorByCommands z = BitVec.intMax 64 := by
    rw [← raw_atan2DenominatorByCommands, ← raw_intMax, raw_inj]
  have habs : absSat (raw z) < one ↔ raw (response (.abs z 0)).res < 0x100000000 := by
    rw [raw_response_abs]
    exact Iff.rfl
  have hnonzero : atan2DenominatorByCommands z ≠ 0 :=
    ne_zero_of_raw_pos (raw_atan2DenominatorByCommands z ▸ atan2Denominator_pos _)
  unfold atan2Quotient atan2QuotientByCommands
  simp only [hden, habs]
  split
  · rw [apply_ite raw, raw_neg_piOver2, raw_piOver2]
  split
  · rw [← raw_atan2DenominatorByCommands, div_raw z hnonzero, ok_bind]
    simp only [apply_ite raw, raw_response_sub, raw_response_add, raw_pi]
  · rw [div_add_sq_c028_raw, ok_bind]
    simp only [atan2SteepByCommands, apply_ite raw, raw_response_sub, raw_piOver2, raw_pi]

/-- The sequence of R183, every operator the command of its name. -/
def atan2ByCommands (y x : Word) : Word :=
  if x = 0 then (if 0 < raw y then 0x1921FB544 else if y = 0 then 0 else 0xFFFFFFFE6DE04ABC)
  else atan2QuotientByCommands y x (response (.div y x)).res

theorem atan2Value_raw (y x : Word) : atan2Value (raw y) (raw x) = .ok (raw (atan2ByCommands y x)) := by
  unfold atan2Value atan2ByCommands
  by_cases hx : x = 0
  · simp only [hx, raw_zero, if_true, raw_eq_zero_iff, apply_ite raw, raw_piOver2, raw_neg_piOver2]
  · rw [if_neg (raw_ne_zero hx), if_neg hx, div_raw y hx, ok_bind, atan2Quotient_raw]

/-- Settles O52: every operator of R183 is the command of its name. -/
theorem atan2IsItsSequence : Obligations.Atan2IsItsSequence := fun a b s =>
  exec_of_value_raw (fun _ => rfl) (atan2Value_raw a b) s

/-! ### The range of ATAN2 (R184) -/

/-- The saturating quotient has the sign of the operands. -/
theorem div_sign (x : Int) {y : Int} (hy : y ≠ 0) :
    ∃ v, div x y = .ok v ∧ -(2 ^ 63) ≤ v ∧ v < 2 ^ 63 ∧ ((x < 0 ↔ y < 0) → 0 ≤ v) ∧ (¬(x < 0 ↔ y < 0) → v ≤ 0) := by
  have hnonneg := divMagnitude_nonneg x y
  refine ⟨_, div_of_ne hy, clamp_lower _, clamp_upper _, fun h => ?_, fun h => ?_⟩
  · rw [divExact_eq_ite, if_pos h]
    exact le_clamp (by decide) hnonneg
  · rw [divExact_eq_ite, if_neg h]
    exact clamp_le (by decide) (by omega)

/-- The denominator of R183 is at least `one`: `mul c028 z` has the sign of `z`. -/
theorem one_le_atan2Denominator (z : Int) : one ≤ atan2Denominator z := by
  have hsq : 0 ≤ mul c028 z * z := by
    rcases le_total 0 z with hz | hz
    · exact mul_nonneg (mul_nonneg_of_mul_nonneg (mul_nonneg (by decide) hz)) hz
    · exact mul_nonneg_of_nonpos_of_nonpos
        (mul_nonpos_of_mul_nonpos (mul_nonpos_of_nonneg_of_nonpos (by decide) hz)) hz
  have hmul := mul_nonneg_of_mul_nonneg hsq
  exact le_clamp (by decide) (by omega)

/-- The first formula of R183 keeps the sign of `z` and does not exceed it. -/
theorem div_atan2Denominator_bounded {z : Int} (h : |z| < one) : ∃ v, div z (atan2Denominator z) = .ok v ∧
    |v| ≤ one ∧ (0 ≤ z → 0 ≤ v) ∧ (z ≤ 0 → v ≤ 0) := by
  have hden := one_le_atan2Denominator z
  have hone : one = 2 ^ 32 := rfl
  obtain ⟨v, hv, hbound, hpos, hneg⟩ := div_bounded (x := z) (y := atan2Denominator z) (q := |z|) (by omega) (by omega)
    (mul_le_mul_of_nonneg_left (by rw [abs_of_nonneg (by omega)]; omega) (abs_nonneg z))
  refine ⟨v, hv, by omega, fun hz => hpos (by omega), fun hz => ?_⟩
  rcases hz.lt_or_eq with hlt | rfl
  · exact hneg (by omega)
  · rw [abs_zero] at hbound
    exact (abs_nonpos_iff.mp hbound).le

/-- The second quotient of R183 is at most 1.5: for `z` of at least `one` its divisor is at least about `z`. -/
theorem div_add_sq_c028_bounded {z : Int} (hlower : -(2 ^ 63) ≤ z) (hupper : z < 2 ^ 63) (h : one ≤ |z|) :
    ∃ v, div z (add (mul z z) c028) = .ok v ∧ |v| ≤ 3 * 2 ^ 31 := by
  have hmax : maxValue = 2 ^ 63 - 1 := rfl
  have hz : |z| ≤ 2 ^ 63 := abs_le.mpr (by omega)
  have hsq : |z| * 2 ^ 32 ≤ z * z := by
    rw [← abs_mul_abs_self z]
    exact mul_le_mul_of_nonneg_left h (abs_nonneg z)
  have hmul : min |z| maxValue ≤ mul z z := le_clamp (min_le_right _ _)
    (le_trans (min_le_left _ _) ((Int.le_ediv_iff_mul_le (by decide)).mpr hsq))
  have hdivisor : min |z| maxValue ≤ add (mul z z) c028 := le_clamp (min_le_right _ _) (by unfold c028; omega)
  have hpos := add_sq_c028_pos z
  obtain ⟨v, hv, hbound, -⟩ := div_bounded (x := z) (q := 3 * 2 ^ 31) hpos.ne' (by decide)
    (by rw [abs_of_pos hpos]; omega)
  exact ⟨v, hv, hbound⟩

/-- From the quotient on, R183 answers a value in `[-Pi, Pi]`: each correction by `Pi` goes against the sign of the
uncorrected angle. -/
theorem atan2Quotient_bounded {y x z : Int} (hlower : -(2 ^ 63) ≤ z) (hupper : z < 2 ^ 63)
    (hpos : (y < 0 ↔ x < 0) → 0 ≤ z) (hneg : ¬(y < 0 ↔ x < 0) → z ≤ 0) :
    ∃ v, |v| ≤ pi ∧ atan2Quotient y x z = .ok v := by
  have hpi : pi = 0x3243F6A88 := rfl
  have hpiOver2 : piOver2 = 0x1921FB544 := rfl
  have hone : one = 2 ^ 32 := rfl
  have hclamp : absSat z = clamp |z| := by rw [absSat_eq_clampRange hlower hupper, clamp_eq_clampRange]
  unfold atan2Quotient
  split
  · refine ⟨_, ?_, rfl⟩
    split <;> decide
  split
  · next hsmall =>
    have habs : |z| < one := by
      by_contra hge
      have : one ≤ absSat z := hclamp ▸ le_clamp (by decide) (not_lt.mp hge)
      omega
    obtain ⟨v, hv, hbound, hv0, hv1⟩ := div_atan2Denominator_bounded habs
    obtain ⟨hbelow, habove⟩ := abs_le.mp hbound
    rw [hv, ok_bind]
    refine ⟨_, ?_, rfl⟩
    split
    · split
      · have := hv0 (hpos (by omega))
        rw [sub_of_range (by omega) (by omega)]
        exact abs_le.mpr (by omega)
      · have := hv1 (hneg (by omega))
        rw [add_of_range (by omega) (by omega)]
        exact abs_le.mpr (by omega)
    · omega
  · next hlarge =>
    have habs : one ≤ |z| := by
      by_contra hlt
      have : absSat z ≤ |z| := hclamp ▸ clamp_le (le_trans (by decide) (abs_nonneg z)) le_rfl
      omega
    obtain ⟨v, hv, hbound⟩ := div_add_sq_c028_bounded hlower hupper habs
    obtain ⟨hbelow, habove⟩ := abs_le.mp hbound
    have hsub : sub piOver2 v = piOver2 - v := sub_of_range (by omega) (by omega)
    rw [hv, ok_bind, hsub]
    refine ⟨_, ?_, rfl⟩
    split
    · rw [sub_of_range (by omega) (by omega)]
      exact abs_le.mpr (by omega)
    · exact abs_le.mpr (by omega)

theorem atan2Value_bounded (y x : Int) : ∃ v, |v| ≤ pi ∧ atan2Value y x = .ok v := by
  unfold atan2Value
  split
  · refine ⟨_, ?_, rfl⟩
    split
    · decide
    · split <;> decide
  · next hx =>
    obtain ⟨z, hz, hlower, hupper, hpos, hneg⟩ := div_sign y hx
    rw [hz, ok_bind]
    exact atan2Quotient_bounded hlower hupper hpos hneg

/-- Settles O51: the bound is `atan2Value_bounded`. -/
theorem atan2CompletesWithinPi : Obligations.Atan2CompletesWithinPi := by
  intro a b s
  obtain ⟨v, hbound, hv⟩ := atan2Value_bounded (raw a) (raw b)
  exact ⟨v, hbound, exec_of_response_unflagged (response_of_value (fun _ => rfl) hv) s⟩

/-! ### ACOS (R187, R188) -/

/-- Inside the domain `1 - x²` is not negative, so its root raises nothing (R188). -/
theorem one_sub_sq_nonneg {x : Int} (hlower : -one ≤ x) (hupper : x ≤ one) : 0 ≤ sub one (mul x x) := by
  have hsq : x * x ≤ one * one := by
    rw [← abs_mul_abs_self x]
    exact mul_self_le_mul_self (abs_nonneg x) (abs_le.mpr ⟨hlower, hupper⟩)
  have hmul : mul x x ≤ one := clamp_le (by decide) (by unfold mulExact floorDiv one at *; omega)
  exact le_clamp (by decide) (by omega)

/-- `sqrt(1 - x²)` of R187 as commands. -/
def acosRoot (a : Word) : Word := (response (.sqrt (response (.sub 0x100000000 (response (.mul a a)).res)).res 0)).res

/-- The composition of R187 inside the domain, every operator the command of its name. -/
def acosByCommands (a : Word) : Word :=
  let r := (response (.atan (response (.div (acosRoot a) a)).res 0)).res
  if a = 0 then 0x1921FB544 else if raw a < 0 then (response (.add r 0x3243F6A88)).res else r

/-- Inside the domain the root raises nothing (R188). -/
theorem sqrt_one_sub_sq_raw {a : Word} (hlower : -one ≤ raw a) (hupper : raw a ≤ one) :
    sqrt (sub one (mul (raw a) (raw a))) = .ok (raw (acosRoot a)) := by
  have hread : raw (response (.sub 0x100000000 (response (.mul a a)).res)).res = sub one (mul (raw a) (raw a)) := by
    rw [raw_response_sub, raw_response_mul, raw_one]
  rw [← hread]
  exact sqrt_raw (hread ▸ one_sub_sq_nonneg hlower hupper) 0

theorem acosValue_raw {a : Word} (hlower : -one ≤ raw a) (hupper : raw a ≤ one) :
    acosValue (raw a) = .ok (raw (acosByCommands a)) := by
  unfold acosValue acosByCommands
  rw [if_neg (by omega)]
  dsimp only
  by_cases ha : a = 0
  · rw [if_pos ((raw_eq_zero_iff a).mpr ha), if_pos ha, raw_piOver2]
  · obtain ⟨-, hatan⟩ := atanValue_eq_raw_response (response (.div (acosRoot a) a)).res 0
    rw [if_neg (raw_ne_zero ha), if_neg ha, sqrt_one_sub_sq_raw hlower hupper, ok_bind, div_raw _ ha, ok_bind, hatan,
      ok_bind, apply_ite raw, raw_response_add, raw_pi]

theorem acosValue_of_outside {x : Int} (h : x < -one ∨ one < x) : acosValue x = .error .domain := if_pos h

/-- Settles O53: DOMAIN outside the interval, inside it every operator is the command of its name. -/
theorem acosIsItsComposition : Obligations.AcosIsItsComposition := by
  intro a b s root r
  constructor
  · intro h
    exact exec_of_response_error (response_of_error (fun _ => rfl) (acosValue_of_outside h)) s
  · intro hlower hupper
    exact exec_of_value_raw (fun _ => rfl) (acosValue_raw hlower hupper) s

end Sys2Proof.Proofs
end

section
/-! LOG2 and LN: the normalising loops as one shift, the squaring steps as passes over natural numbers, and what LOG2
and LN respond (spec/45_series_transcendentals.md R190, R191, R193). -/

namespace Sys2Proof.Proofs

open Sys2Proof.Machine

/-! ### The normalising loops (R190, R191) -/

/-- The first loop of R190 doubles a value exactly as often as it takes to reach `[one, 2 one)`. -/
theorem normaliseUp_eq {n k : Nat} (hk : k ≤ n) {x : Int} (y : Int) (hlower : one ≤ x * 2 ^ k)
    (hupper : x * 2 ^ k < 2 * one) : normaliseUp n { rx := x, y := y } = { rx := x * 2 ^ k, y := y - k * one } := by
  induction k generalizing n x y with
  | zero =>
    rw [pow_zero, mul_one] at hlower
    cases n with
    | zero => simp [normaliseUp]
    | succ n => simp [normaliseUp, not_lt.mpr hlower]
  | succ k ih =>
    obtain ⟨m, rfl⟩ := Nat.exists_eq_add_of_le' (Nat.one_le_of_lt hk)
    have hshift : x * 2 * 2 ^ k = x * 2 ^ (k + 1) := by ring
    have hsmall : x < one := by
      have hpow : (1 : Int) ≤ 2 ^ k := one_le_pow₀ (by decide)
      by_contra hge
      have hnonneg : 0 ≤ x := by unfold one at hge; omega
      have := mul_le_mul_of_nonneg_left hpow (show 0 ≤ x * 2 by omega)
      omega
    have hnext := ih (n := m) (by omega) (x := x * 2) (y - one) (hshift ▸ hlower) (hshift ▸ hupper)
    have hcount : y - one - k * one = y - (k + 1 : Nat) * one := by push_cast; ring
    rw [normaliseUp, if_pos hsmall, hnext, hshift, hcount]

/-- The second loop halves a value exactly as often as it takes to bring it below `2 one`. -/
theorem normaliseDown_eq {n k : Nat} (hk : k ≤ n) {x : Int} (y : Int) (hlower : one ≤ x / 2 ^ k)
    (hupper : x / 2 ^ k < 2 * one) :
    normaliseDown n { rx := x, y := y } = { rx := x / 2 ^ k, y := y + k * one } := by
  induction k generalizing n x y with
  | zero =>
    rw [pow_zero, Int.ediv_one] at hupper
    cases n with
    | zero => simp [normaliseDown]
    | succ n => simp [normaliseDown, not_le.mpr hupper]
  | succ k ih =>
    obtain ⟨m, rfl⟩ := Nat.exists_eq_add_of_le' (Nat.one_le_of_lt hk)
    have hshift : x / 2 / 2 ^ k = x / 2 ^ (k + 1) := by
      rw [Int.ediv_ediv_of_nonneg (by decide), pow_succ']
    have hlarge : 2 * one ≤ x := by
      have hmul : one * 2 ^ (k + 1) ≤ x := (Int.le_ediv_iff_mul_le (by positivity)).mp hlower
      have hpow : (1 : Int) ≤ 2 ^ k := one_le_pow₀ (by decide)
      rw [pow_succ] at hmul
      unfold one at hmul ⊢
      omega
    have hnext := ih (n := m) (by omega) (x := x / 2) (y + one) (hshift ▸ hlower) (hshift ▸ hupper)
    have hcount : y + one + k * one = y + (k + 1 : Nat) * one := by push_cast; ring
    rw [normaliseDown, if_pos hlarge, floorDiv, hnext, hshift, hcount]

/-- A value whose highest set bit is `p`, shifted so that this bit is bit 32 (R191). -/
def mantissa (x p : Nat) : Nat := if p ≤ 32 then x * 2 ^ (32 - p) else x / 2 ^ (p - 32)

theorem mantissa_range {x p : Nat} (hlower : 2 ^ p ≤ x) (hupper : x < 2 ^ (p + 1)) :
    2 ^ 32 ≤ mantissa x p ∧ mantissa x p < 2 ^ 33 := by
  unfold mantissa
  split
  · next hp =>
    have hlow : 2 ^ p * 2 ^ (32 - p) = 2 ^ 32 := by rw [← pow_add]; congr 1; omega
    have hhigh : 2 ^ (p + 1) * 2 ^ (32 - p) = 2 ^ 33 := by rw [← pow_add]; congr 1; omega
    have hpos : 0 < 2 ^ (32 - p) := by positivity
    rw [← hlow, ← hhigh]
    exact ⟨Nat.mul_le_mul_right _ hlower, Nat.mul_lt_mul_of_pos_right hupper hpos⟩
  · next hp =>
    have hlow : 2 ^ 32 * 2 ^ (p - 32) = 2 ^ p := by rw [← pow_add]; congr 1; omega
    have hhigh : 2 ^ 33 * 2 ^ (p - 32) = 2 ^ (p + 1) := by rw [← pow_add]; congr 1; omega
    have hpos : 0 < 2 ^ (p - 32) := by positivity
    exact ⟨(Nat.le_div_iff_mul_le hpos).mpr (hlow ▸ hlower), Nat.div_lt_of_lt_mul (by rwa [mul_comm, hhigh])⟩

/-- Both loops of R190 are the one shift of R191. -/
theorem normalise_eq {x p : Nat} (hp : p ≤ 62) (hlower : 2 ^ p ≤ x) (hupper : x < 2 ^ (p + 1)) :
    normalise x = { rx := mantissa x p, y := ((p : Int) - 32) * 2 ^ 32 } := by
  obtain ⟨hlow, hhigh⟩ := mantissa_range hlower hupper
  have hone : one = 2 ^ 32 := rfl
  unfold mantissa at hlow hhigh ⊢
  unfold normalise
  by_cases hle : p ≤ 32
  · rw [if_pos hle] at hlow hhigh ⊢
    have hcast : (x : Int) * 2 ^ (32 - p) = (x * 2 ^ (32 - p) : Nat) := by push_cast; ring
    have hup := normaliseUp_eq (n := 32) (k := 32 - p) (x := x) (by omega) 0 (by omega) (by omega)
    have hdown := normaliseDown_eq (n := 32) (k := 0) (x := (x * 2 ^ (32 - p) : Nat)) (by omega)
      (0 - ((32 - p : Nat) : Int) * one) (by rw [pow_zero, Int.ediv_one]; omega) (by rw [pow_zero, Int.ediv_one]; omega)
    rw [hup, hcast, hdown, pow_zero, Int.ediv_one, Normalised.mk.injEq]
    exact ⟨rfl, by rw [hone]; omega⟩
  · rw [if_neg hle] at hlow hhigh ⊢
    have hcast : (x : Int) / 2 ^ (p - 32) = (x / 2 ^ (p - 32) : Nat) := by push_cast; ring
    have hlarge : 2 ^ 32 ≤ x := le_trans (Nat.pow_le_pow_right two_pos (by omega)) hlower
    have hstay : normaliseUp 32 { rx := x, y := 0 } = { rx := x, y := 0 } := if_neg (by dsimp only; omega)
    have hdown := normaliseDown_eq (n := 32) (k := p - 32) (x := x) (by omega) 0 (by omega) (by omega)
    rw [hstay, hdown, hcast, Normalised.mk.injEq]
    exact ⟨rfl, by rw [hone]; omega⟩

/-! ### The squaring steps (R190) -/

/-- A pass keeps the value in `[one, 2 one)`. -/
theorem squaringPass_range {v : Nat × Nat} (h0 : 2 ^ 32 ≤ v.1) (h1 : v.1 < 2 ^ 33) :
    2 ^ 32 ≤ (squaringPass v).1 ∧ (squaringPass v).1 < 2 ^ 33 := by
  have hlower : 2 ^ 32 * 2 ^ 32 ≤ v.1 * v.1 := Nat.mul_le_mul h0 h0
  have hupper : v.1 * v.1 < 2 ^ 33 * 2 ^ 33 := Nat.mul_self_lt_mul_self h1
  unfold squaringPass
  split <;> dsimp only <;> omega

/-- With `n` steps to go, the bits found so far weigh `2^n`: the model adds each bit at its weight, the pass shifts the
bits it has found. -/
theorem squaringSteps_eq (n z bits : Nat) (base : Int) (h0 : 2 ^ 32 ≤ z) (h1 : z < 2 ^ 33) :
    squaringSteps n z (base + bits * 2 ^ n) = base + (squaringPass^[n] (z, bits)).2 := by
  induction n generalizing z bits with
  | zero => simp [squaringSteps]
  | succ n ih =>
    have hupper : z * z < 2 ^ 33 * 2 ^ 33 := Nat.mul_self_lt_mul_self h1
    have hproduct : mulExact z z = (z * z / 2 ^ 32 : Nat) := by unfold mulExact floorDiv; push_cast; rfl
    have hfmul : fmul z z = (z * z / 2 ^ 32 : Nat) := by
      rw [← hproduct]
      exact fmul_of_range (by omega) (by omega)
    have hone : 2 * one = 2 ^ 33 := rfl
    obtain ⟨hrange0, hrange1⟩ := squaringPass_range (v := (z, bits)) h0 h1
    rw [Function.iterate_succ_apply]
    unfold squaringSteps
    unfold squaringPass at hrange0 hrange1 ⊢
    dsimp only at hrange0 hrange1 ⊢
    rw [hfmul]
    by_cases hbit : 2 ^ 33 ≤ z * z / 2 ^ 32
    · have hhalf : floorDiv ((z * z / 2 ^ 32 : Nat) : Int) 2 = (z * z / 2 ^ 32 / 2 : Nat) := by
        unfold floorDiv; push_cast; rfl
      have hweight : base + bits * 2 ^ (n + 1) + 2 ^ n = base + ((2 * bits + 1 : Nat) : Int) * 2 ^ n := by
        push_cast; ring
      rw [if_pos hbit] at hrange0 hrange1
      rw [if_pos hbit, if_pos (by omega), hhalf, hweight]
      exact ih _ _ hrange0 hrange1
    · have hweight : base + bits * 2 ^ (n + 1) = base + ((2 * bits : Nat) : Int) * 2 ^ n := by push_cast; ring
      rw [if_neg hbit] at hrange0 hrange1
      rw [if_neg hbit, if_neg (by omega), hweight]
      exact ih _ _ hrange0 hrange1

/-- The 32 fraction bits of the logarithm of a value in `[one, 2 one)`. -/
def fractionBits (z : Nat) : Nat := ((List.range 32).foldl (fun v _ => squaringPass v) (z, 0)).2

theorem fractionBits_eq (z : Nat) : fractionBits z = (squaringPass^[32] (z, 0)).2 := by
  rw [fractionBits, List.foldl_const, List.length_range]

/-! ### What LOG2 and LN respond -/

/-- The value of LOG2 in closed form (R191). -/
theorem log2Value_natCast {x p : Nat} (hp : p ≤ 62) (hlower : 2 ^ p ≤ x) (hupper : x < 2 ^ (p + 1)) :
    log2Value x = .ok (((p : Int) - 32) * 2 ^ 32 + fractionBits (mantissa x p)) := by
  obtain ⟨hlow, hhigh⟩ := mantissa_range hlower hupper
  have hpos : 0 < x := lt_of_lt_of_le (by positivity) hlower
  have hsteps := squaringSteps_eq 32 (mantissa x p) 0 (((p : Int) - 32) * 2 ^ 32) hlow hhigh
  rw [Nat.cast_zero, zero_mul, add_zero] at hsteps
  rw [log2Value, if_neg (by omega), normalise_eq hp hlower hupper, hsteps, fractionBits_eq]

theorem log2Value_of_nonpos {x : Int} (h : x ≤ 0) : log2Value x = .error .domain := if_pos h

/-- The highest set bit of a positive word. -/
theorem exists_highest_bit {a : Word} (h : 0 < raw a) :
    ∃ p : Nat, p ≤ 62 ∧ 2 ^ p ≤ a.toNat ∧ a.toNat < 2 ^ (p + 1) := by
  have hcast := natCast_toNat_of_raw_nonneg h.le
  have hlt := toNat_lt_of_raw_nonneg h.le
  have hlog : Nat.log 2 a.toNat < 63 := Nat.log_lt_of_lt_pow (by omega) hlt
  exact ⟨Nat.log 2 a.toNat, by omega, Nat.pow_log_le_self 2 (by omega), Nat.lt_pow_succ_log_self one_lt_two _⟩

theorem response_log2 {a : Word} {p : Nat} (hp : p ≤ 62) (hlower : 2 ^ p ≤ a.toNat) (hupper : a.toNat < 2 ^ (p + 1))
    (b : Word) : response (.log2 a b) =
      okResponse (unflagged (((p : Int) - 32) * 2 ^ 32 + fractionBits (mantissa a.toNat p))) := by
  have hlt : a.toNat < 2 ^ 63 := lt_of_lt_of_le hupper (Nat.pow_le_pow_right two_pos (by omega))
  have hraw : raw a = a.toNat := BitVec.toInt_eq_toNat_of_lt (by omega)
  exact response_of_value (fun _ => rfl) (hraw ▸ log2Value_natCast hp hlower hupper)

theorem response_log2_of_nonpos {a : Word} (h : raw a ≤ 0) (b : Word) :
    response (.log2 a b) = errResponse .domain := response_of_error (fun _ => rfl) (log2Value_of_nonpos h)

/-- Settles O54: the closed form of the two loops and the squarings. -/
theorem log2IsItsSequence : Obligations.Log2IsItsSequence := by
  intro a b s
  constructor
  · intro h
    exact exec_of_response_error (response_log2_of_nonpos h b) s
  · intro h
    obtain ⟨p, hp, hlower, hupper⟩ := exists_highest_bit h
    have hexec := exec_of_response_unflagged (response_log2 hp hlower hupper b) s
    exact ⟨p, hp, hlower, hupper, hexec⟩

/-! ### Range, order and exactness (R191) -/

/-- The bits found in `n` passes are below `2^n`, after those found before. -/
theorem squaringPass_iterate_bits_lt (n : Nat) (v : Nat × Nat) :
    (squaringPass^[n] v).2 < (v.2 + 1) * 2 ^ n := by
  induction n generalizing v with
  | zero => simp
  | succ n ih =>
    have hpass : (squaringPass v).2 + 1 ≤ (v.2 + 1) * 2 := by
      unfold squaringPass
      split <;> dsimp only <;> omega
    calc (squaringPass^[n + 1] v).2 < ((squaringPass v).2 + 1) * 2 ^ n := by
          rw [Function.iterate_succ_apply]
          exact ih _
      _ ≤ (v.2 + 1) * 2 * 2 ^ n := Nat.mul_le_mul_right _ hpass
      _ = (v.2 + 1) * 2 ^ (n + 1) := by ring

theorem fractionBits_lt (z : Nat) : fractionBits z < 2 ^ 32 := by
  have hbits := squaringPass_iterate_bits_lt 32 (z, 0)
  rwa [← fractionBits_eq, zero_add, one_mul] at hbits

/-- The order of the squaring steps: the bits found so far decide, then the value that is left. -/
def BitsThenValueLe (v w : Nat × Nat) : Prop := v.2 < w.2 ∨ v.2 = w.2 ∧ v.1 ≤ w.1

/-- A pass keeps the order, because squaring does and a crossing of 2 becomes the next bit. -/
theorem squaringPass_mono {v w : Nat × Nat} (h : BitsThenValueLe v w) :
    BitsThenValueLe (squaringPass v) (squaringPass w) := by
  unfold BitsThenValueLe at h ⊢
  rcases h with hlt | ⟨heq, hle⟩
  · left
    unfold squaringPass
    split <;> split <;> dsimp only <;> omega
  · have hsquare : v.1 * v.1 ≤ w.1 * w.1 := Nat.mul_le_mul hle hle
    unfold squaringPass
    split <;> split <;> dsimp only <;> omega

theorem fractionBits_mono {z w : Nat} (h : z ≤ w) : fractionBits z ≤ fractionBits w := by
  have hiterate (n : Nat) : BitsThenValueLe (squaringPass^[n] (z, 0)) (squaringPass^[n] (w, 0)) := by
    induction n with
    | zero => exact .inr ⟨rfl, h⟩
    | succ n ih =>
      rw [Function.iterate_succ_apply', Function.iterate_succ_apply']
      exact squaringPass_mono ih
  rw [fractionBits_eq, fractionBits_eq]
  rcases hiterate 32 with hlt | ⟨heq, -⟩
  · exact hlt.le
  · exact heq.le

/-- The square of `one` is `one`, so a power of two has no fraction bit. -/
theorem fractionBits_one : fractionBits (2 ^ 32) = 0 := by
  have hfixed : squaringPass (2 ^ 32, 0) = (2 ^ 32, 0) := by decide
  rw [fractionBits_eq, Function.iterate_fixed hfixed]

theorem mantissa_two_pow (p : Nat) : mantissa (2 ^ p) p = 2 ^ 32 := by
  unfold mantissa
  split
  · rw [← pow_add]
    congr 1
    omega
  · rw [Nat.pow_div (by omega) two_pos]
    congr 1
    omega

theorem mantissa_mono {x y : Nat} (h : x ≤ y) (p : Nat) : mantissa x p ≤ mantissa y p := by
  unfold mantissa
  split
  · exact Nat.mul_le_mul_right _ h
  · exact Nat.div_le_div_right h

theorem raw_response_log2 {a : Word} {p : Nat} (hp : p ≤ 62) (hlower : 2 ^ p ≤ a.toNat)
    (hupper : a.toNat < 2 ^ (p + 1)) (b : Word) :
    raw (response (.log2 a b)).res = ((p : Int) - 32) * 2 ^ 32 + fractionBits (mantissa a.toNat p) := by
  have hbits := fractionBits_lt (mantissa a.toNat p)
  rw [response_log2 hp hlower hupper]
  exact raw_response_unflagged (by omega) (by omega)

theorem raw_response_log2_range {a : Word} (h : 0 < raw a) (b : Word) :
    -0x2000000000 ≤ raw (response (.log2 a b)).res ∧ raw (response (.log2 a b)).res < 0x1F00000000 := by
  obtain ⟨p, hp, hlower, hupper⟩ := exists_highest_bit h
  have hbits := fractionBits_lt (mantissa a.toNat p)
  rw [raw_response_log2 hp hlower hupper]
  omega

/-- Of two values with the same highest bit the mantissas are in order; else the integer parts are. -/
theorem raw_response_log2_mono {a a' : Word} (h : 0 < raw a) (hle : raw a ≤ raw a') (b b' : Word) :
    raw (response (.log2 a b)).res ≤ raw (response (.log2 a' b')).res := by
  have hnat : a.toNat ≤ a'.toNat := by
    have ha := natCast_toNat_of_raw_nonneg h.le
    have ha' := natCast_toNat_of_raw_nonneg (h.le.trans hle)
    omega
  obtain ⟨p, hp, hlower, hupper⟩ := exists_highest_bit h
  obtain ⟨p', hp', hlower', hupper'⟩ := exists_highest_bit (h.trans_le hle)
  have hbits := fractionBits_lt (mantissa a.toNat p)
  have hpp : p < p' + 1 := (Nat.pow_lt_pow_iff_right one_lt_two).mp (hlower.trans_lt (hnat.trans_lt hupper'))
  rw [raw_response_log2 hp hlower hupper, raw_response_log2 hp' hlower' hupper']
  rcases (Nat.lt_succ_iff.mp hpp).lt_or_eq with hlt | rfl
  · omega
  · have hmono := fractionBits_mono (mantissa_mono hnat p)
    omega

theorem response_log2_two_pow {p : Nat} (hp : p ≤ 62) (b : Word) :
    (response (.log2 (BitVec.ofNat 64 (2 ^ p)) b)).res = wordOf (((p : Int) - 32) * 2 ^ 32) := by
  have hlt : 2 ^ p < 2 ^ 64 := Nat.pow_lt_pow_right one_lt_two (by omega)
  have htoNat : (BitVec.ofNat 64 (2 ^ p)).toNat = 2 ^ p := by rw [BitVec.toNat_ofNat, Nat.mod_eq_of_lt hlt]
  rw [response_log2 hp htoNat.ge (by rw [htoNat, pow_succ]; have := Nat.two_pow_pos p; omega), htoNat,
    mantissa_two_pow, fractionBits_one, Nat.cast_zero, add_zero]
  rfl

/-- Settles O55: one lemma per clause of R191. -/
theorem log2RangeMonotoneExact : Obligations.Log2RangeMonotoneExact :=
  ⟨fun _ b h => raw_response_log2_range h b, fun _ _ b b' h hle => raw_response_log2_mono h hle b b',
    fun _ b hp => response_log2_two_pow hp b⟩

/-! ### LN (R193) -/

/-- LOG2's word reads back as its value. -/
theorem log2Value_eq_raw_response {a : Word} (h : 0 < raw a) (b : Word) :
    log2Value (raw a) = .ok (raw (response (.log2 a b)).res) := by
  obtain ⟨p, hp, hlower, hupper⟩ := exists_highest_bit h
  rw [raw_response_log2 hp hlower hupper, ← natCast_toNat_of_raw_nonneg h.le, log2Value_natCast hp hlower hupper]

theorem lnValue_raw {a : Word} (h : 0 < raw a) :
    lnValue (raw a) = .ok (raw (response (.fmul (response (.log2 a 0)).res 0xB17217F7)).res) := by
  rw [lnValue, log2Value_eq_raw_response h 0, map_ok, raw_response_fmul, raw_ln2]

theorem lnValue_of_nonpos {x : Int} (h : x ≤ 0) : lnValue x = .error .domain := by
  rw [lnValue, log2Value_of_nonpos h]
  rfl

/-- Settles O56: LN maps LOG2's value, and its error, through the fast product. -/
theorem lnIsLog2TimesLn2 : Obligations.LnIsLog2TimesLn2 := by
  intro a b s
  constructor
  · intro h
    exact exec_of_response_error (response_of_error (fun _ => rfl) (lnValue_of_nonpos h)) s
  · intro h
    exact exec_of_value_raw (fun _ => rfl) (lnValue_raw h) s

end Sys2Proof.Proofs
end

section
/-! POW2's series in natural numbers: its terms and sums, which grow with the fraction, so that the largest fraction
bounds them all; and the commands and the loop of R195, which compute them (spec/45_series_transcendentals.md R195,
R196). -/

namespace Sys2Proof.Proofs

open Sys2Proof.Machine

/-! ### The series in natural numbers -/

/-- The term after the term `t` of pass `i`, at the fraction `f`: two floored products and a division rounded to nearest
(R195). -/
def seriesNext (f i t : Nat) : Nat :=
  (2 * (f * t / 2 ^ 32 * 0xB17217F7 / 2 ^ 32) + (i + 1)) / (2 * (i + 1))

/-- The terms of R195's series; that they are the model's is `pow2Loop_natCast` and `raw_pow2Term`. -/
def seriesTerm (f : Nat) : Nat → Nat
  | 0 => 2 ^ 32
  | i + 1 => seriesNext f i (seriesTerm f i)

/-- The sums of R195's series. -/
def seriesSum (f : Nat) : Nat → Nat
  | 0 => 2 ^ 32
  | n + 1 => seriesSum f n + seriesTerm f (n + 1)

theorem seriesNext_zero (f i : Nat) : seriesNext f i 0 = 0 := by
  unfold seriesNext
  rw [mul_zero, Nat.zero_div, zero_mul, Nat.zero_div, mul_zero, zero_add]
  exact Nat.div_eq_of_lt (by omega)

/-- Both factors are below `one`, so no term exceeds the one before. -/
theorem seriesNext_le {f : Nat} (hf : f < 2 ^ 32) (i t : Nat) : seriesNext f i t ≤ t := by
  have hproduct : f * t / 2 ^ 32 ≤ t := Nat.div_le_of_le_mul (Nat.mul_le_mul_right t hf.le)
  have hscaled : f * t / 2 ^ 32 * 0xB17217F7 / 2 ^ 32 ≤ t := by omega
  unfold seriesNext
  generalize f * t / 2 ^ 32 * 0xB17217F7 / 2 ^ 32 = u at hscaled
  refine le_trans (Nat.lt_succ_iff.mp (Nat.div_lt_of_lt_mul ?_)) hscaled
  nlinarith

theorem seriesNext_mono {f g t u : Nat} (hfg : f ≤ g) (htu : t ≤ u) (i : Nat) :
    seriesNext f i t ≤ seriesNext g i u := by
  unfold seriesNext
  gcongr

theorem seriesTerm_le {f : Nat} (hf : f < 2 ^ 32) (i : Nat) : seriesTerm f i ≤ 2 ^ 32 := by
  induction i with
  | zero => exact le_rfl
  | succ i ih => exact (seriesNext_le hf i _).trans ih

theorem seriesTerm_mono {f g : Nat} (h : f ≤ g) (i : Nat) : seriesTerm f i ≤ seriesTerm g i := by
  induction i with
  | zero => exact le_rfl
  | succ i ih => exact seriesNext_mono h ih i

theorem seriesSum_mono {f g : Nat} (h : f ≤ g) (n : Nat) : seriesSum f n ≤ seriesSum g n := by
  induction n with
  | zero => exact le_rfl
  | succ n ih => exact Nat.add_le_add ih (seriesTerm_mono h (n + 1))

/-- After a zero term every term is zero. -/
theorem seriesTerm_add_of_zero {f i : Nat} (h : seriesTerm f i = 0) (k : Nat) : seriesTerm f (i + k) = 0 := by
  induction k with
  | zero => exact h
  | succ k ih =>
    rw [← add_assoc, seriesTerm, ih]
    exact seriesNext_zero f (i + k)

/-- After a zero term the sum is complete. -/
theorem seriesSum_add_of_zero {f i : Nat} (h : seriesTerm f i = 0) (k : Nat) :
    seriesSum f (i + k) = seriesSum f i := by
  induction k with
  | zero => rfl
  | succ k ih => rw [← add_assoc, seriesSum, ih, add_assoc, seriesTerm_add_of_zero h, add_zero]

/-- The largest fraction's term is zero at pass 12, and so is every other fraction's (R196). -/
theorem seriesTerm_twelve {f : Nat} (hf : f < 2 ^ 32) : seriesTerm f 12 = 0 := by
  have hlargest : seriesTerm 0xFFFFFFFF 12 = 0 := by decide
  have hmono := seriesTerm_mono (show f ≤ 0xFFFFFFFF by omega) 12
  omega

theorem one_le_seriesSum (f n : Nat) : 2 ^ 32 ≤ seriesSum f n := by
  induction n with
  | zero => exact le_rfl
  | succ n ih => exact ih.trans (Nat.le_add_right _ _)

/-- No sum exceeds the largest fraction's complete one (R196). -/
theorem seriesSum_le {f : Nat} (hf : f < 2 ^ 32) (n : Nat) : seriesSum f n ≤ 0x1FFFFFFFB := by
  have hgrows : Monotone (seriesSum f) := monotone_nat_of_le_succ fun n => Nat.le_add_right _ _
  calc seriesSum f n ≤ seriesSum f (12 + n) := hgrows (Nat.le_add_left n 12)
    _ = seriesSum f 12 := seriesSum_add_of_zero (seriesTerm_twelve hf) n
    _ ≤ seriesSum 0xFFFFFFFF 12 := seriesSum_mono (by omega) 12
    _ = 0x1FFFFFFFB := by decide

/-! ### One pass of R195 -/

theorem mulExact_natCast (x y : Nat) : mulExact x y = (x * y / 2 ^ 32 : Nat) := by
  unfold mulExact floorDiv
  push_cast
  rfl

theorem fmul_natCast {x y : Nat} (h : x * y / 2 ^ 32 < 2 ^ 63) : fmul x y = (x * y / 2 ^ 32 : Nat) := by
  rw [← mulExact_natCast]
  exact fmul_of_range (by rw [mulExact_natCast]; omega) (by rw [mulExact_natCast]; omega)

/-- Division by an integer is that integer's rounded quotient. -/
theorem div_fromInt_natCast {x : Nat} (h : x < 2 ^ 63) (i : Nat) :
    div x (fromInt (i + 1 : Nat)) = .ok ((2 * x + (i + 1)) / (2 * (i + 1)) : Nat) := by
  have hpos : (0 : Int) < fromInt (i + 1 : Nat) := by unfold fromInt; omega
  have hscale : (2 : Int) * x * 2 ^ 32 + (i + 1 : Nat) * 2 ^ 32 = 2 ^ 32 * (2 * x + (i + 1 : Nat)) := by ring
  have hdivisor : (2 : Int) * ((i + 1 : Nat) * 2 ^ 32) = 2 ^ 32 * (2 * (i + 1 : Nat)) := by ring
  have hexact : divExact x (fromInt (i + 1 : Nat)) = ((2 * x + (i + 1)) / (2 * (i + 1)) : Nat) := by
    rw [divExact_eq_ite, if_pos (by omega), divMagnitude, floorDiv, magnitude_eq_abs, magnitude_eq_abs,
      abs_of_pos hpos, Nat.abs_cast, fromInt, hscale, hdivisor, Int.mul_ediv_mul_of_pos _ _ (by decide)]
    push_cast
    rfl
  have hle : (2 * x + (i + 1)) / (2 * (i + 1)) ≤ x :=
    Nat.lt_succ_iff.mp (Nat.div_lt_of_lt_mul (by nlinarith))
  generalize (2 * x + (i + 1)) / (2 * (i + 1)) = q at hexact hle
  rw [div_of_ne hpos.ne', hexact, clamp_of_range (by omega) (by omega)]

/-- The operators of a pass answer the next term. -/
theorem div_fmul_natCast {f t : Nat} (hf : f < 2 ^ 32) (ht : t ≤ 2 ^ 32) (i : Nat) :
    div (fmul (fmul f t) ln2) (fromInt (i + 1 : Nat)) = .ok (seriesNext f i t : Int) := by
  have hproduct : f * t / 2 ^ 32 ≤ t := Nat.div_le_of_le_mul (Nat.mul_le_mul_right t hf.le)
  have hln2 : ln2 = (0xB17217F7 : Nat) := rfl
  rw [hln2, fmul_natCast (by omega), fmul_natCast (by omega), div_fromInt_natCast (by omega)]
  rfl

/-! ### The loop -/

/-- `n` passes of R195's loop, from the sum after `i` passes, end at the sum after `i + n`: leaving at a zero term
changes nothing. -/
theorem pow2Loop_natCast {f : Nat} (hf : f < 2 ^ 32) (n i : Nat) : ∃ t,
    pow2Loop f n (i + 1) { term := seriesTerm f i, result := seriesSum f i } =
      .ok { term := t, result := seriesSum f (i + n) } := by
  induction n generalizing i with
  | zero => exact ⟨_, rfl⟩
  | succ n ih =>
    unfold pow2Loop
    split
    · next hzero =>
      rw [seriesSum_add_of_zero (Int.natCast_eq_zero.mp hzero)]
      exact ⟨_, rfl⟩
    · have hsum := seriesSum_le hf (i + 1)
      have hnext : seriesSum f (i + 1) = seriesSum f i + seriesNext f i (seriesTerm f i) := rfl
      have hadd : add (seriesSum f i) (seriesNext f i (seriesTerm f i)) = seriesSum f (i + 1) := by
        rw [add_of_range (by omega) (by omega)]
        omega
      have hcount : i + (n + 1) = i + 1 + n := by omega
      rw [div_fmul_natCast hf (seriesTerm_le hf i), ok_bind, hadd, hcount]
      exact ih (i + 1)

end Sys2Proof.Proofs
end

section
/-! POW2 and POW: the series as commands, POW2's value in each of its ranges, and POW's composition
(spec/45_series_transcendentals.md R175, R195 to R197, R200). -/

namespace Sys2Proof.Proofs

open Sys2Proof.Machine

/-! ### The series as commands (R195, R196) -/

theorem raw_eq_natCast {w : Word} (h : w.toNat < 2 ^ 63) : raw w = w.toNat := BitVec.toInt_eq_toNat_of_lt (by omega)

theorem raw_ofNat {n : Nat} (h : n < 2 ^ 63) : raw (BitVec.ofNat 64 n) = n := by
  have htoNat : (BitVec.ofNat 64 n).toNat = n := Nat.mod_eq_of_lt (by omega)
  rw [raw_eq_natCast (by omega), htoNat]

/-- One pass of the statement's series is one pass in natural numbers. -/
theorem raw_response_pow2_pass {f t divisor : Word} {i n : Nat} (hf : f.toNat < 2 ^ 32) (hn : n ≤ 2 ^ 32)
    (ht : raw t = n) (hdivisor : raw divisor = fromInt (i + 1 : Nat)) :
    raw (response (.div (response (.fmul (response (.fmul f t)).res 0xB17217F7)).res divisor)).res =
      seriesNext f.toNat i n := by
  have hraw : raw f = f.toNat := raw_eq_natCast (by omega)
  have hnonzero : divisor ≠ 0 := ne_zero_of_raw_pos (by rw [hdivisor, fromInt]; omega)
  have hdiv := div_raw (response (.fmul (response (.fmul f t)).res 0xB17217F7)).res hnonzero
  rw [raw_response_fmul, raw_response_fmul, raw_ln2, hdivisor, ht, hraw, div_fmul_natCast hf hn i] at hdiv
  exact (Except.ok.inj hdiv).symm

theorem raw_ofNat_succ_mul {i : Nat} (hi : i + 1 < 2 ^ 31) :
    raw (BitVec.ofNat 64 ((i + 1) * 2 ^ 32)) = fromInt (i + 1 : Nat) := by
  rw [raw_ofNat (by omega), fromInt]
  push_cast
  ring

/-- The sequence from `start` whose entry `i + 1` is `next i` of entry `i`. -/
def termsFrom (start : Word) (next : Nat → Word → Word) : Nat → Word
  | 0 => start
  | i + 1 => next i (termsFrom start next i)

/-- The statement's terms are such a sequence. Said of all terms at once, because the equation of one term would have
the kernel evaluate the command in it. -/
theorem pow2Term_eq_termsFrom (f : Word) : pow2Term f = termsFrom 0x100000000 fun i t =>
    (response (.div (response (.fmul (response (.fmul f t)).res 0xB17217F7)).res
      (BitVec.ofNat 64 ((i + 1) * 2 ^ 32)))).res := by
  delta pow2Term termsFrom
  rfl

/-- The statement's terms, every operator the command of its name, are the natural ones. -/
theorem raw_pow2Term {f : Word} (hf : f.toNat < 2 ^ 32) (i : Nat) (hi : i < 2 ^ 31) :
    raw (pow2Term f i) = seriesTerm f.toNat i := by
  rw [pow2Term_eq_termsFrom]
  induction i with
  | zero => rfl
  | succ i ih =>
    rw [termsFrom, seriesTerm]
    exact raw_response_pow2_pass hf (seriesTerm_le hf i) (ih (by omega)) (raw_ofNat_succ_mul hi)

/-- The statement's sums are the natural ones: the word addition never wraps. -/
theorem raw_pow2Sum {f : Word} (hf : f.toNat < 2 ^ 32) (n : Nat) (hn : n < 2 ^ 31) :
    raw (pow2Sum f n) = seriesSum f.toNat n := by
  induction n with
  | zero => rfl
  | succ n ih =>
    have hstep : pow2Sum f (n + 1) = pow2Sum f n + pow2Term f (n + 1) := by
      unfold pow2Sum
      rw [List.range_succ, List.foldl_append, List.foldl_cons, List.foldl_nil]
    have hnext : seriesSum f.toNat (n + 1) = seriesSum f.toNat n + seriesTerm f.toNat (n + 1) := rfl
    have hbound := seriesSum_le hf (n + 1)
    have hsum := ih (by omega)
    have hterm := raw_pow2Term hf (n + 1) hn
    rw [hstep, ← wordOf_add_raw, raw_wordOf (by omega) (by omega), hsum, hterm, hnext, Nat.cast_add]

theorem pow2Term_twelve {f : Word} (hf : f.toNat < 2 ^ 32) : pow2Term f 12 = 0 := by
  rw [← raw_eq_zero_iff, raw_pow2Term hf 12 (by decide), seriesTerm_twelve hf]
  rfl

/-- Settles O58: terms and sums grow with the fraction, and the largest fraction's are evaluated. -/
theorem pow2SeriesTerminates : Obligations.Pow2SeriesTerminates := by
  intro f hf
  have hlower := one_le_seriesSum f.toNat 12
  have hupper := seriesSum_le hf 12
  simp only [toInt_eq_raw, raw_pow2Sum hf 12 (by decide)]
  exact ⟨pow2Term_twelve hf, by omega, by omega⟩

/-! ### The scaled series -/

/-- The complete sum at the fraction of a magnitude, shifted by its integer part (R195). -/
def scaledSeries (m : Nat) : Nat := seriesSum (m % 2 ^ 32) 12 * 2 ^ (m / 2 ^ 32)

/-- The shift alters no bit: below 31.0 the shifted sum is a positive raw value (R196). -/
theorem scaledSeries_range {m : Nat} (h : m < 31 * 2 ^ 32) : 2 ^ 32 ≤ scaledSeries m ∧ scaledSeries m < 2 ^ 63 := by
  have hlower := one_le_seriesSum (m % 2 ^ 32) 12
  have hupper := seriesSum_le (f := m % 2 ^ 32) (Nat.mod_lt m (by decide)) 12
  have hshift : 2 ^ (m / 2 ^ 32) ≤ 2 ^ 30 := Nat.pow_le_pow_right two_pos (by omega)
  have hpos : 1 ≤ 2 ^ (m / 2 ^ 32) := Nat.one_le_two_pow
  unfold scaledSeries
  generalize 2 ^ (m / 2 ^ 32) = scale at hshift hpos
  constructor <;> nlinarith

theorem pow2Series_natCast {m : Nat} (h : m < 31 * 2 ^ 32) : pow2Series m = .ok (scaledSeries m : Int) := by
  have hf : m % 2 ^ 32 < 2 ^ 32 := Nat.mod_lt m (by decide)
  obtain ⟨hlower, hupper⟩ := scaledSeries_range h
  obtain ⟨t, hloop⟩ := pow2Loop_natCast hf pow2Passes 0
  have hcomplete : seriesSum (m % 2 ^ 32) (0 + pow2Passes) = seriesSum (m % 2 ^ 32) 12 :=
    seriesSum_add_of_zero (seriesTerm_twelve hf) 52
  have hfrac : frac m = (m % 2 ^ 32 : Nat) := rfl
  have hinteger : (floorDiv m (2 ^ 32)).toNat = m / 2 ^ 32 := rfl
  have hstart : ({ term := seriesTerm (m % 2 ^ 32) 0, result := seriesSum (m % 2 ^ 32) 0 } : SeriesState) =
      { term := one, result := one } := rfl
  have hscaled : (seriesSum (m % 2 ^ 32) 12 : Int) * 2 ^ (m / 2 ^ 32) = scaledSeries m := by
    unfold scaledSeries
    push_cast
    rfl
  rw [hstart, hcomplete] at hloop
  rw [pow2Series, hfrac, hloop, ok_bind, hinteger, hscaled, wrap_of_range (by omega) (by omega)]

/-! ### The value of POW2, by ranges (R195) -/

theorem pow2Value_of_ge {x : Int} (h : log2Max ≤ x) : pow2Value x = .ok maxValue := by
  have hmax : log2Max = 0x1F00000000 := rfl
  rw [pow2Value, if_neg (by omega), if_pos h]

theorem pow2Value_of_le {x : Int} (h : x ≤ log2Min) : pow2Value x = .ok 0 := by
  have hmin : log2Min = -0x2000000000 := rfl
  have hmax : log2Max = 0x1F00000000 := rfl
  rw [pow2Value, if_neg (by omega), if_neg (by omega), if_pos h]

/-- Between -32.0 and -31.0 POW2 is the reciprocal of `MaxValue`. -/
theorem pow2Value_of_between {x : Int} (hlower : log2Min < x) (hupper : x ≤ -log2Max) :
    pow2Value x = div one maxValue := by
  have hmin : log2Min = -0x2000000000 := rfl
  have hmax : log2Max = 0x1F00000000 := rfl
  rw [pow2Value, if_neg (by omega), if_neg (by omega), if_neg (by omega),
    if_pos (by rw [magnitude_eq_abs, abs_of_neg (by omega)]; omega)]

theorem scaledSeries_zero : scaledSeries 0 = 2 ^ 32 := by decide

theorem scaledSeries_one : scaledSeries (2 ^ 32) = 2 ^ 33 := by decide

/-- Below 31.0 POW2 is the scaled series; the shortcuts at 0 and `one` give what the series gives. -/
theorem pow2Value_natCast {m : Nat} (h : m < 31 * 2 ^ 32) : pow2Value m = .ok (scaledSeries m : Int) := by
  have hmax : log2Max = 0x1F00000000 := rfl
  have hmin : log2Min = -0x2000000000 := rfl
  have hone : one = 2 ^ 32 := rfl
  have hmagnitude : magnitude m = m := rfl
  unfold pow2Value
  rw [hmagnitude]
  by_cases hzero : m = 0
  · rw [if_pos (by omega), hzero, scaledSeries_zero]
    rfl
  rw [if_neg (by omega), if_neg (by omega), if_neg (by omega), if_neg (by omega)]
  by_cases hshortcut : m = 2 ^ 32
  · rw [if_pos (by omega), if_neg (by omega), hshortcut, scaledSeries_one]
    rfl
  · rw [if_neg (by omega), pow2Series_natCast h, ok_bind, if_neg (by omega)]

/-- Above -31.0 a negative operand's POW2 is the reciprocal of its magnitude's. -/
theorem pow2Value_neg_natCast {m : Nat} (h0 : 0 < m) (h : m < 31 * 2 ^ 32) :
    pow2Value (-m) = div one (scaledSeries m) := by
  have hmax : log2Max = 0x1F00000000 := rfl
  have hmin : log2Min = -0x2000000000 := rfl
  have hone : one = 2 ^ 32 := rfl
  have hmagnitude : magnitude (-m) = m := by rw [magnitude_eq_abs, abs_neg, Nat.abs_cast]
  rw [pow2Value, hmagnitude, if_neg (by omega), if_neg (by omega), if_neg (by omega), if_neg (by omega)]
  by_cases hshortcut : m = 2 ^ 32
  · rw [if_pos (by omega), if_pos (by omega), hshortcut, scaledSeries_one]
    rfl
  · rw [if_neg (by omega), pow2Series_natCast h, ok_bind, if_pos (by omega)]

/-- The ranges of R195's tests. -/
theorem pow2_ranges (x : Int) : log2Max ≤ x ∨ x ≤ log2Min ∨ (log2Min < x ∧ x ≤ -log2Max) ∨
    (∃ m : Nat, m < 31 * 2 ^ 32 ∧ x = m) ∨ (∃ m : Nat, 0 < m ∧ m < 31 * 2 ^ 32 ∧ x = -m) := by
  unfold log2Max log2Min
  rcases le_or_gt 0 x with h | h
  · by_cases hmax : x < 0x1F00000000
    · exact .inr (.inr (.inr (.inl ⟨x.natAbs, by omega, by omega⟩)))
    · exact .inl (by omega)
  · by_cases hmin : -0x1F00000000 < x
    · exact .inr (.inr (.inr (.inr ⟨x.natAbs, by omega, by omega, by omega⟩)))
    · omega

/-- POW2 completes for every operand, in `[0, MaxValue]` (R197). -/
theorem pow2Value_bounded (x : Int) : ∃ v, pow2Value x = .ok v ∧ 0 ≤ v ∧ v ≤ maxValue := by
  have hmaxValue : maxValue = 2 ^ 63 - 1 := rfl
  have hreciprocal {y : Int} (h : one ≤ y) : ∃ v, div one y = .ok v ∧ 0 ≤ v ∧ v ≤ maxValue := by
    obtain ⟨v, hv, hv0, hv1⟩ := div_one_bounded h
    exact ⟨v, hv, hv0, hv1.trans (by decide)⟩
  rcases pow2_ranges x with h | h | ⟨hlower, hupper⟩ | ⟨m, hm, rfl⟩ | ⟨m, hm0, hm, rfl⟩
  · exact ⟨_, pow2Value_of_ge h, by decide, le_rfl⟩
  · exact ⟨_, pow2Value_of_le h, le_rfl, by decide⟩
  · rw [pow2Value_of_between hlower hupper]
    exact hreciprocal (by decide)
  · obtain ⟨hlower, hupper⟩ := scaledSeries_range hm
    exact ⟨_, pow2Value_natCast hm, by omega, by omega⟩
  · obtain ⟨hlower, -⟩ := scaledSeries_range hm
    rw [pow2Value_neg_natCast hm0 hm]
    exact hreciprocal (by unfold one; omega)

/-! ### POW2 as commands -/

theorem toNat_pow2Fraction (a : Word) : (pow2Fraction a).toNat = (raw a).natAbs % 2 ^ 32 :=
  Nat.mod_eq_of_lt (lt_trans (Nat.mod_lt _ (by decide)) (by decide))

theorem toNat_pow2Fraction_lt (a : Word) : (pow2Fraction a).toNat < 2 ^ 32 :=
  toNat_pow2Fraction a ▸ Nat.mod_lt _ (by decide)

/-- The statement's shifted sum is the scaled series. -/
theorem raw_pow2Sum_shiftLeft {a : Word} (h : (raw a).natAbs < 31 * 2 ^ 32) :
    raw (pow2Sum (pow2Fraction a) 12 <<< ((raw a).natAbs / 2 ^ 32)) = scaledSeries (raw a).natAbs := by
  have hsum := raw_pow2Sum (toNat_pow2Fraction_lt a) 12 (by decide)
  have hbits : (pow2Sum (pow2Fraction a) 12).toNat = seriesSum ((raw a).natAbs % 2 ^ 32) 12 := by
    have hcast := natCast_toNat_of_raw_nonneg (hsum ▸ Int.natCast_nonneg _)
    rw [hsum, toNat_pow2Fraction] at hcast
    exact_mod_cast hcast
  obtain ⟨-, hupper⟩ := scaledSeries_range h
  have hshift : (pow2Sum (pow2Fraction a) 12 <<< ((raw a).natAbs / 2 ^ 32)).toNat =
      scaledSeries (raw a).natAbs := by
    rw [BitVec.toNat_shiftLeft, hbits, Nat.shiftLeft_eq]
    exact Nat.mod_eq_of_lt (lt_trans hupper (by decide))
  rw [raw_eq_natCast (by omega), hshift]

/-- The sequence of R195 from the complete sum on, every operator the command of its name. -/
def pow2ByCommands (a : Word) : Word :=
  let scaled := pow2Sum (pow2Fraction a) 12 <<< (a.toInt.natAbs / 2 ^ 32)
  if 0x1F00000000 ≤ a.toInt then BitVec.intMax 64
  else if a.toInt ≤ -0x2000000000 then 0
  else if a.toInt ≤ -0x1F00000000 then (response (.div 0x100000000 (BitVec.intMax 64))).res
  else if a.toInt < 0 then (response (.div 0x100000000 scaled)).res
  else scaled

theorem pow2Value_raw (a : Word) : pow2Value (raw a) = .ok (raw (pow2ByCommands a)) := by
  have hmax : log2Max = 0x1F00000000 := rfl
  have hmin : log2Min = -0x2000000000 := rfl
  have hscaled := raw_pow2Sum_shiftLeft (a := a)
  unfold pow2ByCommands
  dsimp only
  rw [toInt_eq_raw]
  rcases pow2_ranges (raw a) with h | h | ⟨hlower, hupper⟩ | ⟨m, hm, hx⟩ | ⟨m, hm0, hm, hx⟩
  · rw [if_pos (by omega), pow2Value_of_ge h, raw_intMax]
  · rw [if_neg (by omega), if_pos (by omega), pow2Value_of_le h, raw_zero]
  · rw [if_neg (by omega), if_neg (by omega), if_pos (by omega), pow2Value_of_between hlower hupper, ← raw_one,
      ← raw_intMax, div_raw _ (by decide)]
  · have hm' : (raw a).natAbs = m := by omega
    rw [if_neg (by omega), if_neg (by omega), if_neg (by omega), if_neg (by omega), hscaled (by omega), hm', hx,
      pow2Value_natCast hm]
  · have hm' : (raw a).natAbs = m := by omega
    have hread := hscaled (by omega)
    have hpos := (scaledSeries_range hm).1
    have hnonzero : pow2Sum (pow2Fraction a) 12 <<< ((raw a).natAbs / 2 ^ 32) ≠ 0 :=
      ne_zero_of_raw_pos (by rw [hread, hm']; omega)
    have hvalue := pow2Value_neg_natCast hm0 hm
    rw [← hx, ← hm', ← hread, ← raw_one, div_raw _ hnonzero] at hvalue
    rw [if_neg (by omega), if_neg (by omega), if_neg (by omega), if_pos (by omega), hvalue]

/-- Settles O57: the sum is complete at pass 12, and from there on every operator is the command of its name. -/
theorem pow2IsItsSequence : Obligations.Pow2IsItsSequence := fun a _ s =>
  ⟨12, pow2Term_twelve (toNat_pow2Fraction_lt a), exec_of_value_raw (fun _ => rfl) (pow2Value_raw a) s⟩

/-! ### Range and exactness of POW2 (R197) -/

theorem response_pow2_res {a : Word} {v : Int} (h : pow2Value (raw a) = .ok v) (b : Word) :
    (response (.pow2 a b)).res = wordOf v := by
  rw [response_of_value (i := .pow2 a b) (fun _ => rfl) h]
  rfl

theorem response_pow2_of_between {a : Word} (hlower : log2Min < raw a) (hupper : raw a ≤ -log2Max) (b : Word) :
    (response (.pow2 a b)).res = 2 := by
  have hvalue : div one maxValue = .ok 2 := rfl
  rw [response_pow2_res ((pow2Value_of_between hlower hupper).trans hvalue)]
  rfl

/-- An integral magnitude has the fraction 0, whose sum is `one` (R196). -/
theorem scaledSeries_integral (j : Nat) : scaledSeries (j * 2 ^ 32) = 2 ^ (j + 32) := by
  have hsum : seriesSum 0 12 = 2 ^ 32 := by decide
  rw [scaledSeries, Nat.mul_mod_left, Nat.mul_div_cancel _ (by decide), hsum, ← pow_add, add_comm]

theorem raw_wordOf_integral {k : Int} (hlower : -31 ≤ k) (hupper : k ≤ 30) :
    raw (BitVec.ofInt 64 (k * 2 ^ 32)) = k * 2 ^ 32 := raw_wordOf (by omega) (by omega)

/-- At an integer `j` from 0 to 30 the scaled series is the power of two itself. -/
theorem pow2Value_integral {j : Nat} (h : j ≤ 30) : pow2Value (j * 2 ^ 32) = .ok (2 ^ (j + 32) : Nat) := by
  have hvalue := pow2Value_natCast (m := j * 2 ^ 32) (by omega)
  rw [scaledSeries_integral] at hvalue
  exact_mod_cast hvalue

/-- At an integer `-j` the reciprocal of a power of two has no remainder. -/
theorem pow2Value_neg_integral {j : Nat} (h0 : 0 < j) (h : j ≤ 30) :
    pow2Value (-(j * 2 ^ 32)) = .ok (2 ^ (32 - j) : Nat) := by
  have hvalue := pow2Value_neg_natCast (m := j * 2 ^ 32) (by omega) (by omega)
  have hproduct : 2 ^ 32 * 2 ^ 32 = 2 ^ (32 - j) * 2 ^ (j + 32) := by
    rw [← pow_add, ← pow_add]
    congr 1
    omega
  have hquotient : 2 ^ (32 - j) < 2 ^ 63 := Nat.pow_lt_pow_right one_lt_two (by omega)
  have hdivisor : 0 < 2 ^ (j + 32) := by positivity
  rw [scaledSeries_integral, div_eq_of_mul (q := (2 ^ (32 - j) : Nat)) (by decide) (by exact_mod_cast hdivisor)
    (Int.natCast_nonneg _) (by exact_mod_cast hquotient) (by unfold one; exact_mod_cast hproduct)] at hvalue
  exact_mod_cast hvalue

theorem response_pow2_integral {k : Int} (hlower : -31 ≤ k) (hupper : k ≤ 30) (b : Word) :
    (response (.pow2 (BitVec.ofInt 64 (k * 2 ^ 32)) b)).res = BitVec.ofNat 64 (2 ^ (k + 32).toNat) := by
  have hraw := raw_wordOf_integral hlower hupper
  have hword (n : Nat) : wordOf n = BitVec.ofNat 64 n := BitVec.ofInt_natCast 64 n
  rcases le_or_gt 0 k with hk | hk
  · obtain ⟨j, rfl⟩ := Int.eq_ofNat_of_zero_le hk
    rw [response_pow2_res (hraw.symm ▸ pow2Value_integral (by omega)), hword]
    rfl
  by_cases hlast : k = -31
  · subst hlast
    exact response_pow2_of_between (by decide) (by decide) b
  · obtain ⟨j, rfl⟩ : ∃ j : Nat, k = -j := ⟨k.natAbs, by omega⟩
    have hexponent : (-(j : Int) + 32).toNat = 32 - j := by omega
    rw [neg_mul] at hraw ⊢
    rw [response_pow2_res (hraw.symm ▸ pow2Value_neg_integral (by omega) (by omega)), hword, hexponent]

/-- Settles O59: the bound is `pow2Value_bounded`; the other clauses are its ranges and the integral operands. -/
theorem pow2RangeAndExactness : Obligations.Pow2RangeAndExactness := by
  refine ⟨?bounded, fun _ b h => response_pow2_res (pow2Value_of_ge h) b,
    fun _ b h => response_pow2_res (pow2Value_of_le h) b,
    fun _ b hlower hupper => response_pow2_of_between hlower hupper b,
    fun _ b hlower hupper => response_pow2_integral hlower hupper b⟩
  case bounded =>
    intro a b s
    obtain ⟨v, hv, hv0, hv1⟩ := pow2Value_bounded (raw a)
    exact ⟨v, hv0, hv1, exec_of_response_unflagged (response_of_value (fun _ => rfl) hv) s⟩

/-! ### POW (R200) -/

/-- POW2's word reads back as its value. -/
theorem pow2Value_eq_raw_response (a b : Word) : pow2Value (raw a) = .ok (raw (response (.pow2 a b)).res) := by
  have hres := response_pow2_res (pow2Value_raw a) b
  rw [wordOf_raw] at hres
  rw [hres, pow2Value_raw]

/-- A positive base goes through its logarithm; the tests before it do not see it. -/
theorem powValue_raw {a b : Word} (hone : a ≠ 0x100000000) (hb : b ≠ 0) (ha : 0 < raw a) : powValue (raw a) (raw b) =
    .ok (raw (response (.pow2 (response (.mul b (response (.log2 a 0)).res)).res 0)).res) := by
  have hone' : raw a ≠ one := by rwa [← raw_one, Ne, raw_inj]
  rw [powValue, if_neg hone', if_neg (raw_ne_zero hb), if_neg ha.ne', log2Value_eq_raw_response ha 0, ok_bind,
    ← raw_response_mul, pow2Value_eq_raw_response _ 0]

theorem powValue_of_one_or_zero {x y : Int} (h : x = one ∨ y = 0) : powValue x y = .ok one := by
  unfold powValue
  split
  · rfl
  · next hx => rw [if_pos (h.resolve_left hx)]

/-- A zero base with an exponent other than 0. -/
theorem powValue_zero {y : Int} (hy : y ≠ 0) : powValue 0 y = if y < 0 then .error .divzero else .ok 0 := by
  rw [powValue, if_neg (by decide), if_neg hy, if_pos rfl]

/-- A negative base reaches the logarithm, which is DOMAIN there. -/
theorem powValue_of_neg {x y : Int} (hx : x < 0) (hy : y ≠ 0) : powValue x y = .error .domain := by
  rw [powValue, if_neg (by unfold one; omega), if_neg hy, if_neg hx.ne, log2Value_of_nonpos hx.le]
  rfl

/-- Settles O60: one lemma per branch of R200. -/
theorem powIsItsComposition : Obligations.PowIsItsComposition := by
  intro a b s
  have hneg (v : Word) : v.toInt < 0 ↔ raw v < 0 := Iff.rfl
  by_cases hfirst : a = 0x100000000 ∨ b = 0
  · have hfirst' : raw a = one ∨ raw b = 0 := by rwa [← raw_one, raw_inj, raw_eq_zero_iff]
    rw [if_pos hfirst]
    exact exec_of_value_raw (fun _ => rfl) (powValue_of_one_or_zero hfirst') s
  rw [if_neg hfirst]
  obtain ⟨hone, hb⟩ := not_or.mp hfirst
  have hexponent := raw_ne_zero hb
  by_cases ha : a = 0
  · have hvalue := powValue_zero hexponent
    subst ha
    rw [if_pos rfl]
    split at hvalue
    · next h =>
      rw [if_pos ((hneg b).mpr h)]
      exact exec_of_response_error (response_of_error (fun _ => rfl) hvalue) s
    · next h =>
      rw [if_neg (mt (hneg b).mp h)]
      exact exec_of_value_raw (fun _ => rfl) hvalue s
  rw [if_neg ha]
  have hbase := raw_ne_zero ha
  by_cases h : raw a < 0
  · rw [if_pos ((hneg a).mpr h)]
    exact exec_of_response_error (response_of_error (fun _ => rfl) (powValue_of_neg h hexponent)) s
  · rw [if_neg (mt (hneg a).mp h)]
    exact exec_of_value_raw (fun _ => rfl) (powValue_raw hone hb (by omega)) s

end Sys2Proof.Proofs
end

section
/-! Exceptions: the completion of a reserved opcode (spec/60_exceptions.md R213, R214). -/

namespace Sys2Proof.Proofs

open Sys2Proof.Machine

/-- A reserved opcode in the latches completes with the ILLOP response, in every state (R213, R214). -/
theorem completeLatched_of_reserved {s : State} (h : s.opr ∈ reservedOpcodes) :
    completeLatched s = .next (answered s 0 false 3) := by
  have hmnemonic : mnemonicOf s.opr = none := (mem_reservedOpcodes_iff s.opr).mp h
  rw [completeLatched_eq, latchedResponse_of_reserved hmnemonic, respond_eq_answered, errResponse_res,
    errResponse_ovf, errResponse_err, errCode]

/-- Settles O8: the command is accepted by `step_of_command`, and the latches then hold its reserved opcode. -/
theorem reservedOpcodeRespondsIllop : Obligations.ReservedOpcodeRespondsIllop := by
  intro s p rest hb hh hr hv hop
  have hlatched : (accepted s p rest).opr ∈ reservedOpcodes := hop
  rw [step_of_command hb hh hr hv, completeLatched_of_reserved hlatched]

end Sys2Proof.Proofs
end

section
/-! Reset: a clock edge with `rst` high (spec/70_reset_and_hazards.md R235, R236). -/

namespace Sys2Proof.Proofs

open Sys2Proof.Machine

/-- Reset comes first: neither a command in flight nor a presented one plays a part (R235, R236). -/
theorem clockEdge_of_rst {p : Pins} (hr : p.rst = true) (s : State) : clockEdge p s = .next (resetRegisters s) := by
  rw [clockEdge, if_pos hr]

/-- The block is ready in the cycle after a reset (R235). -/
@[simp] theorem cmdReady_resetRegisters (s : State) : cmdReady (resetRegisters s) = true := by
  rw [cmdReady, resetRegisters_busy, Bool.not_false]

/-- Settles O12: the state after the edge is `resetRegisters s`, read register by register. -/
theorem resetEdgeAbandonsCommand : Obligations.ResetEdgeAbandonsCommand := by
  intro p s hr
  exact ⟨resetRegisters s, clockEdge_of_rst hr s, resetRegisters_opr s, resetRegisters_a s, resetRegisters_b s,
    resetRegisters_res s, resetRegisters_ovf s, resetRegisters_err s, resetRegisters_rvalid s,
    resetRegisters_busy s, cmdReady_resetRegisters s, resetRegisters_rspValid s⟩

end Sys2Proof.Proofs
end
